-- ==== Sys2Proof/Word.lean ====
section
/-! DEFINITION. The unit of transfer on both streams of the block (20_memory.md R30, 00_scope.md R7). -/

namespace Sys2Proof

/-- A byte: bits 7 (weight 128) down to 0 (weight 1), 00_scope.md R7. -/
abbrev Byte := BitVec 8

end Sys2Proof
end

