-- ==== Sys2Proof/Machine/Bits.lean ====
section
/-! DEFINITION. The notation of 00_scope.md R7: bit slices, wrap, big-endian bytes, truncation, and
the little-endian value of 20_memory.md R34. -/

namespace Sys2Proof.Machine

/-- `v[hi:lo]`, R7: `floor(v / 2^lo) mod 2^(hi-lo+1)`. -/
def slice (v hi lo : Nat) : Nat := v / 2 ^ lo % 2 ^ (hi - lo + 1)

/-- `wrap_N(z)`, R7: the low `n` bits of the two's-complement form of `z`. -/
def wrap (n : Nat) (z : Int) : BitVec n := BitVec.ofInt n z

/-- `BE_n(u)`, R7: `n` bytes, the most significant first. -/
def beBytes (n u : Nat) : List Byte :=
  (List.range n).map fun k => BitVec.ofNat 8 (slice u (8 * (n - k) - 1) (8 * (n - 1 - k)))

/-- The integer a big-endian byte sequence stands for (20_memory.md R33). -/
def beValue (s : List Byte) : Nat := s.foldl (fun acc b => 256 * acc + b.toNat) 0

/-- The integer a little-endian byte sequence stands for: `sum of p[k] * 2^(8k)` (20_memory.md R34). -/
def leValue : List Byte → Nat
  | [] => 0
  | b :: rest => b.toNat + 256 * leValue rest

/-- `trunc(q)`, R7: the rational with its fractional part dropped, toward zero. -/
def trunc (q : Rat) : Int := if 0 ≤ q then q.floor else -(-q).floor

/-- `trunc(a / b)`, R7: the fraction `a / b` with its fractional part dropped, toward zero. -/
def truncDiv (a : Int) (b : Nat) : Int := a.tdiv b

/-- Byte `k` of a number, byte 0 the least significant. -/
def byteOf (w k : Nat) : Byte := BitVec.ofNat 8 (slice w (8 * k + 7) (8 * k))

end Sys2Proof.Machine
end

