-- ==== Sys2Proof/Config.lean ====
section
/-! DEFINITION. What is fixed for one block: the hardwired constants of 00_scope.md R5 (none is
programmable, 10_state.md R21) and the parameters R6 leaves open. An open parameter is an opaque
constant: nothing can compute it, so what is proved holds for every value of it. -/

namespace Sys2Proof.Config

/-- `SYNC_BYTE`, R5. -/
def syncByte : Byte := 0xC8
/-- `LEN_MIN`, R5 and 30_encoding.md R51. -/
def lenMin : Nat := 2
/-- `MAX_PACKET_LEN`, R5. -/
def maxPacketLen : Nat := 64
/-- `LEN_MAX = MAX_PACKET_LEN - 2`, R5 and 30_encoding.md R51. -/
def lenMax : Nat := maxPacketLen - 2
/-- `CRC_POLY`, R5 and 40_crc8.md R80. -/
def crcPoly : Byte := 0xD5
/-- `CH_MID`, R5: mid reference and reset value of every channel. -/
def chMid : Nat := 992
/-- `CH_MAX`, R5. -/
def chMax : Nat := 1811
/-- `RC_PAYLOAD_LEN`, R5. -/
def rcPayloadLen : Nat := 22
/-- Least payload of a link-statistics frame that is decoded, 42_decoder.md R118. -/
def linkStatsPayloadMin : Nat := 6
/-- `TYPE_GPS`, R5. -/
def typeGps : Byte := 0x02
/-- `TYPE_BATTERY`, R5. -/
def typeBattery : Byte := 0x08
/-- `TYPE_LINK_STATISTICS`, R5. -/
def typeLinkStatistics : Byte := 0x14
/-- `TYPE_RC_CHANNELS_PACKED`, R5. -/
def typeRcChannels : Byte := 0x16
/-- `TYPE_ATTITUDE`, R5. -/
def typeAttitude : Byte := 0x1E
/-- `TYPE_FLIGHT_MODE`, R5. -/
def typeFlightMode : Byte := 0x21
/-- `ALT_OFFSET`, R5, in metres. -/
def altOffset : Nat := 1000
/-- `MODE_MAX`, R6 (92_eei_decisions.md D18): greatest flight-mode name length with a meaning. -/
def modeMax : Nat := 59
/-- `TIMEOUT_DEFAULT_MS`, R5. -/
def timeoutDefaultMs : Nat := 1000

/-- How far `TIME_W` exceeds its lower bound. OPEN (R6, D10): a free value, log 2. -/
opaque timeWExtra : Nat
/-- `TIME_W`, the width of the millisecond timer: OPEN, any width of at least 11 (R6). -/
def timeW : Nat := 11 + timeWExtra

/-- A millisecond count of the platform timer, `TIME_W` bits (R6, 60_exceptions.md R161). -/
abbrev Time := BitVec timeW

/-- `lq0`, R6: the unspecified reset value of `link_quality`. A free value, log 3. -/
opaque lq0 : Byte
/-- `rssi0`, R6: the unspecified reset value of `rssi_dbm`, any value of the 9-bit register. A free value, log 3. -/
opaque rssi0 : BitVec 9
/-- `lpt0`, R6: the unspecified reset value of `last_packet_time`. A free value, log 3. -/
opaque lpt0 : Time
/-- `rxq0`, R6: the content of the RX queue when the block leaves reset. A free value, log 4. -/
opaque rxq0 : List Byte
/-- The timer's count when the block leaves reset: not given (N10, 60_exceptions.md R161). A free value, log 5. -/
opaque now0 : Time

end Sys2Proof.Config
end

