-- ==== Sys2Proof/Machine/Operands.lean ====
section
/-! DEFINITION. Operand assembly (30_encoding.md R51, R57 to R62): the legal length byte, the scale
functions, the payload layouts of the four built frames, and the frame around a payload. -/

namespace Sys2Proof.Machine

/-- A length byte in range, 30_encoding.md R51: `2 ≤ length ≤ 62`. -/
def lengthLegal (n : Byte) : Bool := Config.lenMin ≤ n.toNat && n.toNat ≤ Config.lenMax

/-- How many payload bytes a length byte announces (30_encoding.md R51: `#payload = length - 2`).
An illegal length byte announces no frame: 0, log 14. -/
def payloadExtent (n : Byte) : Nat := if lengthLegal n then n.toNat - 2 else 0

/-- `scale10(q) = trunc(q * 10)`, 30_encoding.md R62 (exact arithmetic: D13, log 16). -/
def scale10 (q : Rat) : Int := truncDiv (q.num * 10) q.den

/-- `scale1e7(q) = trunc(q * 10000000)`, 30_encoding.md R62. -/
def scale1e7 (q : Rat) : Int := truncDiv (q.num * 10000000) q.den

/-- `scale_att(q) = trunc(q * 314159 / 1800)`, 30_encoding.md R62. -/
def scaleAtt (q : Rat) : Int := truncDiv (q.num * 314159) (q.den * 1800)

/-- `scale_alt(q) = trunc(q + 1000)`, 30_encoding.md R62 (the offset first: D15). -/
def scaleAlt (q : Rat) : Int := truncDiv (q.num + Config.altOffset * q.den) q.den

/-- The BATTERY payload, 30_encoding.md R57. -/
def batteryPayload (voltage current : BitVec 16) (capacity : BitVec 24) : List Byte :=
  beBytes 2 voltage.toNat ++ beBytes 2 current.toNat ++ beBytes 3 capacity.toNat ++ [0x00]

/-- The GPS payload, 30_encoding.md R58: groundspeed and heading are two zero bytes each. -/
def gpsPayload (latitude longitude : BitVec 32) (altitude : BitVec 16) (satellites : Byte) : List Byte :=
  beBytes 4 latitude.toNat ++ beBytes 4 longitude.toNat ++ [0x00, 0x00] ++ [0x00, 0x00]
    ++ beBytes 2 altitude.toNat ++ [satellites]

/-- The ATTITUDE payload, 30_encoding.md R59. -/
def attitudePayload (pitch roll yaw : BitVec 16) : List Byte :=
  beBytes 2 pitch.toNat ++ beBytes 2 roll.toNat ++ beBytes 2 yaw.toNat

/-- Every character is ASCII, 0x00 .. 0x7F (43_encoder.md R135). -/
def allAscii (name : List Nat) : Bool := name.all (· ≤ 0x7F)

/-- The FLIGHT_MODE payload of a name, 30_encoding.md R60: one byte a character, then 0x00. -/
def flightModePayload (name : List Nat) : List Byte := name.map (BitVec.ofNat 8) ++ [0x00]

/-- The frame of type `t` and payload `p`, 43_encoder.md R130 and 30_encoding.md R50:
sync, length `#p + 2`, type, payload, CRC over type and payload. -/
def frameOf (t : Byte) (p : List Byte) : List Byte :=
  [Config.syncByte, BitVec.ofNat 8 (p.length + 2)] ++ (t :: p) ++ [crc8 (t :: p)]

end Sys2Proof.Machine
end

