-- ==== Sys2Proof/Syntax.lean ====
section
/-! DEFINITION. The instructions of the block: one constructor per row of spec/opcode_table.json.
By 92_eei_decisions.md D27 a host operation is an instruction, and so is a frame on the wire, whose
opcode is its type byte. -/

namespace Sys2Proof

open Config (Time)

/-- The nine host operations of 30_encoding.md R66. -/
inductive HostOp
  | poll | crc8 | getChannelPercent | isConnected | readState
  | encGps | encBattery | encAttitude | encFlightMode
  deriving DecidableEq, Repr

/-- One operand of a host operation (30_encoding.md R66). The spec gives operands no bits (D3): they
are values, log 15. -/
inductive Arg
  /-- a byte sequence -/
  | bytes (s : List Byte)
  /-- an exact rational (integers are the rationals of denominator 1), D13, D16 -/
  | num (q : Rat)
  /-- a `TIME_W`-bit unsigned count of milliseconds, D23 -/
  | time (t : Time)
  /-- a sequence of character code points, D18 -/
  | text (name : List Nat)
  deriving DecidableEq, Repr

/-- A host invocation: the 8-bit select code and the operands given with it (30_encoding.md R66). -/
structure Call where
  code : Byte
  args : List Arg
  deriving DecidableEq, Repr

/-- The instructions: three received frames, four built frames, nine host operations. -/
inductive Instr
  /-- RC_CHANNELS_PACKED, type 0x16 as received: length byte, payload, CRC byte (30_encoding.md R55). -/
  | rcChannelsPacked (length : Byte) (payload : List Byte) (crc : Byte)
  /-- LINK_STATISTICS, type 0x14 as received (30_encoding.md R56). -/
  | linkStatistics (length : Byte) (payload : List Byte) (crc : Byte)
  /-- RX_UNRECOGNISED, any other type as received (42_decoder.md R114). -/
  | rxUnrecognised (frameType : Byte) (length : Byte) (payload : List Byte) (crc : Byte)
  /-- BATTERY as built: the three fields of 30_encoding.md R57 (percent remaining is always 0). -/
  | battery (voltage current : BitVec 16) (capacity : BitVec 24)
  /-- GPS as built: the fields of 30_encoding.md R58 (groundspeed and heading are always 0). -/
  | gps (latitude longitude : BitVec 32) (altitude : BitVec 16) (satellites : Byte)
  /-- ATTITUDE as built: the fields of 30_encoding.md R59. -/
  | attitude (pitch roll yaw : BitVec 16)
  /-- FLIGHT_MODE as built: the payload of 30_encoding.md R60, the name's bytes and the terminator. -/
  | flightMode (payload : List Byte)
  /-- POLL, 41_synchronizer.md R90. -/
  | poll
  /-- CRC8, 40_crc8.md R84. -/
  | crc8 (s : List Byte)
  /-- GET_CHANNEL_PERCENT, 42_decoder.md R119. -/
  | getChannelPercent (i : Int)
  /-- IS_CONNECTED, 42_decoder.md R121; `none` when the host gives no timeout. -/
  | isConnected (timeout : Option Time)
  /-- READ_STATE, 42_decoder.md R120. -/
  | readState
  /-- ENC_GPS, 43_encoder.md R133. -/
  | encGps (latitude longitude altitude : Rat) (satellites : Int)
  /-- ENC_BATTERY, 43_encoder.md R132. -/
  | encBattery (voltage current : Rat) (capacity : Int)
  /-- ENC_ATTITUDE, 43_encoder.md R134. -/
  | encAttitude (pitch roll yaw : Rat)
  /-- ENC_FLIGHT_MODE, 43_encoder.md R135. -/
  | encFlightMode (name : List Nat)
  deriving DecidableEq, Repr

/-- An instruction as it is fetched: a host invocation, a frame received from the RX queue, or a
frame being built for the TX stream. The direction decides how a frame is read (30_encoding.md R54),
log 13. -/
inductive Encoded
  | call (c : Call)
  | rxFrame (bytes : List Byte)
  | txFrame (bytes : List Byte)
  deriving DecidableEq, Repr

/-- Why a decoder refuses. -/
inductive DecodeError
  /-- the select code is none of 30_encoding.md R66 (U15) -/
  | noSuchOperation
  /-- the operands are outside the operation's operand types (U21) -/
  | operandsDoNotFit
  /-- the bytes end before the frame does -/
  | tooShort
  /-- the first byte is not 0xC8 (30_encoding.md R50) -/
  | badSync
  /-- the type is none of the four the block builds (30_encoding.md R64) -/
  | notABuiltType
  /-- the payload length is not the type's (30_encoding.md R65) -/
  | badPayloadLength
  /-- a field the layout fixes at zero is not zero (30_encoding.md R57, R58) -/
  | fixedFieldNotZero
  deriving DecidableEq, Repr

end Sys2Proof
end

