-- ==== Sys2Proof/Machine/State.lean ====
section
/-! DEFINITION. The state of the block (10_state.md) and of what it touches: the two byte streams, the
timer, and the agents around it as plain data. -/

namespace Sys2Proof.Machine

open Config (Time)

/-- Link State, the block's registers, 10_state.md R10 to R14. -/
structure LinkState where
  /-- `channels[0..15]`, 11 bits each, R11 -/
  channels : Vector (BitVec 11) 16
  /-- `link_quality`, R12 -/
  linkQuality : Byte
  /-- `rssi_dbm`, 9-bit two's complement, R13 -/
  rssiDbm : BitVec 9
  /-- `last_packet_time`, R14 -/
  lastPacketTime : Time
  deriving DecidableEq, Repr

/-- The synchronizer's position in one POLL, 10_state.md R16. -/
inductive Phase
  | idle | s1 | s2 | s3 | s4 | s5 | s6
  deriving DecidableEq, Repr

/-- The causes of "no frame", 60_exceptions.md R150. -/
inductive Cause
  | noData | badSync | noLength | badLength | truncated | badCrc
  deriving DecidableEq, Repr

/-- What an operation reports to the host. -/
inductive Result
  /-- POLL, outcome "frame", 41_synchronizer.md R90 -/
  | frame (frameType : Byte) (payload : List Byte)
  /-- POLL, outcome "no frame" with its cause, 41_synchronizer.md R90 -/
  | noFrame (c : Cause)
  /-- CRC8, 40_crc8.md R84 -/
  | crc (c : Byte)
  /-- GET_CHANNEL_PERCENT, 42_decoder.md R119 -/
  | percent (q : Rat)
  /-- IS_CONNECTED, 42_decoder.md R121 -/
  | connected (b : Bool)
  /-- READ_STATE, 42_decoder.md R120 -/
  | linkState (ls : LinkState)
  /-- an ENC operation: the frame handed to the transport, 43_encoder.md R130 -/
  | sent (frame : List Byte)
  /-- ENC_FLIGHT_MODE, 60_exceptions.md R153 -/
  | encodingError
  deriving DecidableEq, Repr

/-- For each register, does a read that overlaps a DECODE return the new value (true) or the old one
(20_memory.md R42)? -/
structure ReadPick where
  channels : Vector Bool 16
  linkQuality : Bool
  rssiDbm : Bool
  lastPacketTime : Bool
  deriving DecidableEq, Repr

/-- What an agent around the block does next (log 6). -/
inductive Event
  /-- the host invokes an operation, 30_encoding.md R66 -/
  | invoke (c : Call)
  /-- the transport appends a byte to the RX queue, 20_memory.md R31 -/
  | rxArrive (b : Byte)
  /-- the timer advances by a whole number of milliseconds, 60_exceptions.md R161 -/
  | timeAdvances (ms : Nat)
  /-- the block calls `Now()` for the POLL in progress, at an instant of its own choosing, 42_decoder.md R115 -/
  | samplesNow
  /-- nothing from outside: the block makes its move before the next event -/
  | blockMoves
  /-- the block makes its move while a second reader reads Link State, 20_memory.md R42 -/
  | overlappingRead (pick : ReadPick)
  deriving DecidableEq, Repr

structure State where
  /-- Link State, 10_state.md R10 -/
  ls : LinkState
  /-- 10_state.md R16 -/
  phase : Phase
  /-- the length byte read at S3; a value only within a POLL, 10_state.md R15 -/
  len : Option Byte
  /-- the bytes read at S5; a value only within a POLL, 10_state.md R15 -/
  d : Option (List Byte)
  /-- the timer's count sampled for the POLL in progress, none until it is sampled, 42_decoder.md R115 (log 8) -/
  stamp : Option Time
  /-- the frame being built, type byte and payload; a value only within an ENC operation, 10_state.md R15 -/
  building : Option (Byte × List Byte)
  /-- the RX queue, oldest byte first, 10_state.md R17 -/
  rxq : List Byte
  /-- every byte handed to the transport, in order, 10_state.md R18 -/
  txlog : List Byte
  /-- the platform timer's count, 60_exceptions.md R161 -/
  now : Time
  /-- the MODEL's own: the result of the latest operation, none while one is in progress (log 12) -/
  result : Option Result
  /-- the MODEL's own: what the agents around the block will do, in order (log 6) -/
  env : List Event
  /-- the MODEL's own: what the second reader last got (log 9) -/
  readerView : Option LinkState
  deriving DecidableEq, Repr

/-- Why the machine stops with a fault. -/
inductive Fault
  /-- Raised by steps S4, S5 and S6 when a transient they read holds no value (10_state.md R15). Safe:
  no run reaches such a state, log 21. -/
  | transientMissing
  deriving DecidableEq, Repr

/-- Why the machine refuses. -/
inductive Refusal
  /-- Raised by an arm of `exec` that has no meaning yet. Safe. No arm is one now. -/
  | notModelled (mnemonic : String)
  /-- Raised by `step` when a select code is outside the table (U15) or operands are outside the
  operand types (U21), log 15. Safe. -/
  | undecodable (e : DecodeError)
  /-- Raised by ENC_FLIGHT_MODE for an ASCII name longer than 59, and by FLIGHT_MODE for a payload
  longer than 60 (43_encoder.md R135, U9), log 20. Safe. -/
  | flightModeTooLong
  deriving DecidableEq, Repr

/-- Link State after construction, 10_state.md R23: the channels at 992, the rest unspecified (log 3). -/
def LinkState.reset : LinkState where
  channels := Vector.replicate 16 (BitVec.ofNat 11 Config.chMid)
  linkQuality := Config.lq0
  rssiDbm := Config.rssi0
  lastPacketTime := Config.lpt0

/-- The machine after construction, 10_state.md R23 and 70_reset_and_hazards.md R170. -/
def State.reset : State where
  ls := LinkState.reset
  phase := .idle
  len := none
  d := none
  stamp := none
  building := none
  rxq := Config.rxq0
  txlog := []
  now := Config.now0
  result := none
  env := []
  readerView := none

end Sys2Proof.Machine
end

