-- ==== Sys2Proof/Machine/Ops.lean ====
section
/-! DEFINITION. The shared operations: the primitives of 00_scope.md R8, the reject and the raise
(60_exceptions.md), reporting a result, the hand-over of a received frame, BUILD. -/

namespace Sys2Proof.Machine

open Config (Time)

/-- `RxAvail()`, 00_scope.md R8. -/
def rxAvail (s : State) : Nat := s.rxq.length

/-- What `RxRead(n)` returns: the oldest `min(n, #rxq)` bytes, 00_scope.md R8. -/
def rxTaken (n : Nat) (s : State) : List Byte := s.rxq.take n

/-- What `RxRead(n)` leaves behind, 00_scope.md R8. -/
def rxDropped (n : Nat) (s : State) : State := { s with rxq := s.rxq.drop n }

/-- `RxFlush()`, 00_scope.md R8. -/
def rxFlush (s : State) : State := { s with rxq := [] }

/-- `TxWrite(bytes)`, 00_scope.md R8. -/
def txWrite (bytes : List Byte) (s : State) : State := { s with txlog := s.txlog ++ bytes }

/-- `Elapsed(now, since)`, 00_scope.md R8: a difference modulo `2^TIME_W`. -/
def elapsed {w : Nat} (now since : BitVec w) : BitVec w := now - since

/-- The transport's step `RxArrive(b)`, 20_memory.md R31. -/
def rxArrive (b : Byte) (s : State) : State := { s with rxq := s.rxq ++ [b] }

/-- The timer advances modulo `2^TIME_W`, 60_exceptions.md R161. -/
def timeAdvances (ms : Nat) (s : State) : State := { s with now := s.now + BitVec.ofNat Config.timeW ms }

/-- The block calls `Now()` for the POLL in progress; between POLLs there is none to sample for
(42_decoder.md R115, D10, log 8). -/
def samplesNow (s : State) : State := if s.phase = .idle then s else { s with stamp := some s.now }

/-- The value DECODE writes to `last_packet_time`: the timer's count at some instant of the POLL
(42_decoder.md R115), the one sampled earlier or else the present one. -/
def stampTime (s : State) : Time := s.stamp.getD s.now

/-- An operation in progress: a POLL, or an ENC operation whose frame is not yet written. -/
def busy (s : State) : Bool := s.phase != .idle || s.building.isSome

/-- The end of an operation that has no steps of its own: its result. -/
def report (r : Result) (s : State) : State := { s with result := some r }

/-- The end of a POLL: back to IDLE, the transients lose their values, a result (10_state.md R15, R16). -/
def endPoll (r : Result) (s : State) : State :=
  { s with phase := .idle, len := none, d := none, stamp := none, result := some r }

/-- `reject <Cause>`, the counterpart of taking an exception, 60_exceptions.md R156: it ends the POLL
with "no frame"; nothing is saved and Link State is unchanged. -/
def reject (c : Cause) (s : State) : State := endPoll (.noFrame c) s

/-- `raise EncodingError`, 60_exceptions.md R153: the operation ends with no bytes produced. -/
def raiseEncodingError (s : State) : State := { s with building := none, result := some .encodingError }

/-- POLL begins at S1; also the way to go on after a reject, 60_exceptions.md R157: nothing is restored. -/
def startPoll (s : State) : State :=
  { s with phase := .s1, len := none, d := none, stamp := none, result := none }

/-- A frame that passed the CRC check: the arm's writes, the timestamp, the outcome "frame"
(41_synchronizer.md R96, 42_decoder.md R110, R115). -/
def accept (t : Byte) (p : List Byte) (arm : LinkState → LinkState) (s : State) : State :=
  endPoll (.frame t p) { s with ls := { arm s.ls with lastPacketTime := stampTime s } }

/-- The received frame of type `t`, length byte `n`, payload `p` and CRC byte `crc`: legal length, whole,
CRC match, in step order (41_synchronizer.md R94 to R96, 60_exceptions.md R155), then the type's arm. -/
def receive (t n : Byte) (p : List Byte) (crc : Byte) (arm : LinkState → LinkState) (s : State) : State :=
  if lengthLegal n = false then reject .badLength s
  else if p.length + 2 < n.toNat then reject .truncated s
  else if crc8 (t :: p) ≠ crc then reject .badCrc s
  else accept t p arm s

/-- An ENC operation has its payload: the frame of type `t` is being built (10_state.md R15). -/
def beginFrame (t : Byte) (p : List Byte) (s : State) : State :=
  { s with building := some (t, p), result := none }

/-- `BUILD(t, p)`, 43_encoder.md R130: one `TxWrite` of the frame, which is also the result (20_memory.md R32). -/
def build (t : Byte) (p : List Byte) (s : State) : State :=
  { txWrite (frameOf t p) s with building := none, result := some (.sent (frameOf t p)) }

/-- A read of Link State that overlaps a DECODE: each register old or new, 20_memory.md R42. -/
def mixLinkState (pick : ReadPick) (old new : LinkState) : LinkState where
  channels := Vector.ofFn fun i => if pick.channels[i] then new.channels[i] else old.channels[i]
  linkQuality := if pick.linkQuality then new.linkQuality else old.linkQuality
  rssiDbm := if pick.rssiDbm then new.rssiDbm else old.rssiDbm
  lastPacketTime := if pick.lastPacketTime then new.lastPacketTime else old.lastPacketTime

/-- The second reader's read during a move of the block that began with Link State `old`. -/
def overlap (pick : ReadPick) (old : LinkState) :
    Host.Outcome State Fault Refusal → Host.Outcome State Fault Refusal
  | .next s => .next { s with readerView := some (mixLinkState pick old s.ls) }
  | .fault f => .fault f
  | .refused r => .refused r

end Sys2Proof.Machine
end

