-- ==== Sys2Proof/Machine/Accessors.lean ====
section
/-! DEFINITION. The operations that only read: CRC8 (40_crc8.md R84) and the accessors
(42_decoder.md R119 to R121). -/

namespace Sys2Proof.Machine

open Config (Time)

/-- The percentage of a raw channel value, 42_decoder.md R119: `(raw - 992) * 100 / 819`, exactly. -/
def percentOf (raw : BitVec 11) : Rat :=
  mkRat (((raw.toNat : Int) - Config.chMid) * 100) (Config.chMax - Config.chMid)

/-- The value of GET_CHANNEL_PERCENT, 42_decoder.md R119: 0 for an index outside 0..15. -/
def channelPercent (ls : LinkState) (i : Int) : Rat :=
  if 0 ≤ i ∧ i ≤ 15 then percentOf (ls.channels.getD i.toNat 0) else 0

/-- The value of IS_CONNECTED, 42_decoder.md R121: elapsed strictly less than the timeout, unsigned. -/
def isConnectedAt {w : Nat} (now lastPacketTime timeout : BitVec w) : Bool :=
  (elapsed now lastPacketTime).ult timeout

/-- The timeout operand, 1000 when the host gives none, 42_decoder.md R121. -/
def timeoutOf (timeout : Option Time) : Time :=
  timeout.getD (BitVec.ofNat Config.timeW Config.timeoutDefaultMs)

/-- CRC8, 40_crc8.md R84. -/
def execCrc8 (bytes : List Byte) (s : State) : Host.Outcome State Fault Refusal :=
  .next (report (.crc (crc8 bytes)) s)

/-- GET_CHANNEL_PERCENT, 42_decoder.md R119. -/
def execGetChannelPercent (i : Int) (s : State) : Host.Outcome State Fault Refusal :=
  .next (report (.percent (channelPercent s.ls i)) s)

/-- IS_CONNECTED, 42_decoder.md R121. -/
def execIsConnected (timeout : Option Time) (s : State) : Host.Outcome State Fault Refusal :=
  .next (report (.connected (isConnectedAt s.now s.ls.lastPacketTime (timeoutOf timeout))) s)

/-- READ_STATE, 42_decoder.md R120. -/
def execReadState (s : State) : Host.Outcome State Fault Refusal :=
  .next (report (.linkState s.ls) s)

end Sys2Proof.Machine
end

