-- ==== Sys2Proof/Machine/Decoder.lean ====
section
/-! DEFINITION. The frame decoder, 42_decoder.md: the three received-frame instructions, which are step
S6 of a POLL. -/

namespace Sys2Proof.Machine

open Config (Time)

/-- Channel `i` of an RC payload, 42_decoder.md R111: `V[11 i + 10 : 11 i]` of its little-endian value. -/
def channelAt (p : List Byte) (i : Nat) : BitVec 11 :=
  BitVec.ofNat 11 (slice (leValue p) (11 * i + 10) (11 * i))

/-- The sixteen channels of an RC payload, 42_decoder.md R111. -/
def unpackChannels (p : List Byte) : Vector (BitVec 11) 16 :=
  #v[channelAt p 0, channelAt p 1, channelAt p 2, channelAt p 3,
    channelAt p 4, channelAt p 5, channelAt p 6, channelAt p 7,
    channelAt p 8, channelAt p 9, channelAt p 10, channelAt p 11,
    channelAt p 12, channelAt p 13, channelAt p 14, channelAt p 15]

/-- The type 0x16 arm, 42_decoder.md R111: `UNPACK_RC` for exactly 22 payload bytes, else no channel is
written (R117). -/
def rcArm (p : List Byte) (ls : LinkState) : LinkState :=
  if p.length = Config.rcPayloadLen then { ls with channels := unpackChannels p } else ls

/-- The type 0x14 arm, 42_decoder.md R113: `DECODE_LINK_STATS` for at least 6 payload bytes, else
neither register is written (R118). -/
def linkStatsArm (p : List Byte) (ls : LinkState) : LinkState :=
  if Config.linkStatsPayloadMin ≤ p.length then
    { ls with rssiDbm := 0 - (p.getD 4 0).zeroExtend 9, linkQuality := p.getD 5 0 }
  else ls

/-- The arm of every other type, 42_decoder.md R114: no field is written. -/
def otherArm (ls : LinkState) : LinkState := ls

/-- `DECODE(frame_type, payload)` on Link State at time `now`, 42_decoder.md R110. -/
def decodeFrame (t : Byte) (p : List Byte) (now : Time) (ls : LinkState) : LinkState :=
  let written :=
    if t = Config.typeRcChannels then rcArm p ls
    else if t = Config.typeLinkStatistics then linkStatsArm p ls
    else otherArm ls
  { written with lastPacketTime := now }

/-- RC_CHANNELS_PACKED, 41_synchronizer.md R96 and 42_decoder.md R111, R117. -/
def execRcChannelsPacked (n : Byte) (p : List Byte) (crc : Byte) (s : State) :
    Host.Outcome State Fault Refusal :=
  .next (receive Config.typeRcChannels n p crc (rcArm p) s)

/-- LINK_STATISTICS, 41_synchronizer.md R96 and 42_decoder.md R113, R118. -/
def execLinkStatistics (n : Byte) (p : List Byte) (crc : Byte) (s : State) :
    Host.Outcome State Fault Refusal :=
  .next (receive Config.typeLinkStatistics n p crc (linkStatsArm p) s)

/-- RX_UNRECOGNISED, 41_synchronizer.md R96 and 42_decoder.md R114. -/
def execRxUnrecognised (t n : Byte) (p : List Byte) (crc : Byte) (s : State) :
    Host.Outcome State Fault Refusal :=
  .next (receive t n p crc otherArm s)

end Sys2Proof.Machine
end

