-- ==== Sys2Proof/Machine/Encoder.lean ====
section
/-! DEFINITION. The telemetry frame packer, 43_encoder.md. An ENC operation scales, wraps and packs its
operands into the payload and has the frame under construction; the frame's own instruction is BUILD
(R130), the move that ends the operation (log 11). -/

namespace Sys2Proof.Machine

/-- ENC_BATTERY, 43_encoder.md R132. -/
def execEncBattery (voltage current : Rat) (capacity : Int) (s : State) :
    Host.Outcome State Fault Refusal :=
  .next (beginFrame Config.typeBattery
    (batteryPayload (wrap 16 (scale10 voltage)) (wrap 16 (scale10 current)) (wrap 24 capacity)) s)

/-- ENC_GPS, 43_encoder.md R133. -/
def execEncGps (latitude longitude altitude : Rat) (satellites : Int) (s : State) :
    Host.Outcome State Fault Refusal :=
  .next (beginFrame Config.typeGps
    (gpsPayload (wrap 32 (scale1e7 latitude)) (wrap 32 (scale1e7 longitude))
      (wrap 16 (scaleAlt altitude)) (wrap 8 satellites)) s)

/-- ENC_ATTITUDE, 43_encoder.md R134. -/
def execEncAttitude (pitch roll yaw : Rat) (s : State) : Host.Outcome State Fault Refusal :=
  .next (beginFrame Config.typeAttitude
    (attitudePayload (wrap 16 (scaleAtt pitch)) (wrap 16 (scaleAtt roll)) (wrap 16 (scaleAtt yaw))) s)

/-- ENC_FLIGHT_MODE, 43_encoder.md R135: the ASCII test first, then the length, which has no meaning
above 59 (U9). -/
def execEncFlightMode (name : List Nat) (s : State) : Host.Outcome State Fault Refusal :=
  if allAscii name = false then .next (raiseEncodingError s)
  else if Config.modeMax < name.length then .refused .flightModeTooLong
  else .next (beginFrame Config.typeFlightMode (flightModePayload name) s)

/-- BATTERY, 43_encoder.md R130 on the layout of 30_encoding.md R57. -/
def execBattery (voltage current : BitVec 16) (capacity : BitVec 24) (s : State) :
    Host.Outcome State Fault Refusal :=
  .next (build Config.typeBattery (batteryPayload voltage current capacity) s)

/-- GPS, 43_encoder.md R130 on the layout of 30_encoding.md R58. -/
def execGps (latitude longitude : BitVec 32) (altitude : BitVec 16) (satellites : Byte) (s : State) :
    Host.Outcome State Fault Refusal :=
  .next (build Config.typeGps (gpsPayload latitude longitude altitude satellites) s)

/-- ATTITUDE, 43_encoder.md R130 on the layout of 30_encoding.md R59. -/
def execAttitude (pitch roll yaw : BitVec 16) (s : State) : Host.Outcome State Fault Refusal :=
  .next (build Config.typeAttitude (attitudePayload pitch roll yaw) s)

/-- FLIGHT_MODE, 43_encoder.md R130 on the layout of 30_encoding.md R60: BUILD takes at most 60 payload
bytes (U9). -/
def execFlightMode (payload : List Byte) (s : State) : Host.Outcome State Fault Refusal :=
  if Config.modeMax + 1 < payload.length then .refused .flightModeTooLong
  else .next (build Config.typeFlightMode payload s)

end Sys2Proof.Machine
end

