-- ==== Sys2Proof/Machine/Synchronizer.lean ====
section
/-! DEFINITION. The frame synchronizer, 41_synchronizer.md: POLL begins at S1; S1 to S5 are one move of
the block each, and the transport may append bytes between any two moves (20_memory.md R41). Step S6 is
the received frame's own instruction (Machine/Decoder.lean). -/

namespace Sys2Proof.Machine

/-- POLL, 41_synchronizer.md R90, R97. -/
def execPoll (s : State) : Host.Outcome State Fault Refusal := .next (startPoll s)

/-- Step S1, minimum fill, 41_synchronizer.md R91. -/
def moveS1 (s : State) : State :=
  if rxAvail s < 2 then reject .noData s else { s with phase := .s2 }

/-- Step S2, sync byte, 41_synchronizer.md R92: an empty read counts as a mismatch (D6). -/
def moveS2 (s : State) : State :=
  if rxTaken 1 s = [Config.syncByte] then { rxDropped 1 s with phase := .s3 }
  else reject .badSync (rxFlush (rxDropped 1 s))

/-- Step S3, length byte, 41_synchronizer.md R93. -/
def moveS3 (s : State) : State :=
  match rxTaken 1 s with
  | [] => reject .noLength (rxDropped 1 s)
  | n :: _ => { rxDropped 1 s with phase := .s4, len := some n }

/-- Step S4, length range, 41_synchronizer.md R94. -/
def moveS4 (s : State) : Host.Outcome State Fault Refusal :=
  match s.len with
  | none => .fault .transientMissing
  | some n => if lengthLegal n then .next { s with phase := .s5 } else .next (reject .badLength s)

/-- Step S5, body read, 41_synchronizer.md R95: a short read is dropped, not kept (R102). -/
def moveS5 (s : State) : Host.Outcome State Fault Refusal :=
  match s.len with
  | none => .fault .transientMissing
  | some n =>
    if (rxTaken n.toNat s).length < n.toNat then .next (reject .truncated (rxDropped n.toNat s))
    else .next { rxDropped n.toNat s with phase := .s6, d := some (rxTaken n.toNat s) }

/-- `PollFn`, 41_synchronizer.md R97: the queue after and the outcome of a POLL during which no byte
arrives, as a function of the queue before it. -/
def pollFn (q : List Byte) : List Byte × Result :=
  if q.length < 2 then (q, .noFrame .noData)
  else if q.getD 0 0 ≠ Config.syncByte then ([], .noFrame .badSync)
  else
    let n := (q.getD 1 0).toNat
    if n < 2 ∨ 62 < n then (q.drop 2, .noFrame .badLength)
    else if q.length - 2 < n then ([], .noFrame .truncated)
    else if crc8 ((q.drop 2).take (n - 1)) ≠ q.getD (n + 1) 0 then (q.drop (n + 2), .noFrame .badCrc)
    else (q.drop (n + 2), .frame (q.getD 2 0) ((q.drop 3).take (n - 2)))

end Sys2Proof.Machine
end

