-- ==== Sys2Proof/Machine/Dispatch.lean ====
section
/-! DEFINITION. The instruction dispatch, one arm per row of spec/opcode_table.json. -/

namespace Sys2Proof.Machine

def exec (i : Instr) (s : State) : Host.Outcome State Fault Refusal :=
  match i with
  | .rcChannelsPacked n p crc => Sys2Proof.Machine.execRcChannelsPacked n p crc s
  | .linkStatistics n p crc => Sys2Proof.Machine.execLinkStatistics n p crc s
  | .rxUnrecognised t n p crc => Sys2Proof.Machine.execRxUnrecognised t n p crc s
  | .battery v a c => Sys2Proof.Machine.execBattery v a c s
  | .gps la lo al sa => Sys2Proof.Machine.execGps la lo al sa s
  | .attitude p r y => Sys2Proof.Machine.execAttitude p r y s
  | .flightMode p => Sys2Proof.Machine.execFlightMode p s
  | .poll => Sys2Proof.Machine.execPoll s
  | .crc8 b => Sys2Proof.Machine.execCrc8 b s
  | .getChannelPercent k => Sys2Proof.Machine.execGetChannelPercent k s
  | .isConnected t => Sys2Proof.Machine.execIsConnected t s
  | .readState => Sys2Proof.Machine.execReadState s
  | .encGps la lo al sa => Sys2Proof.Machine.execEncGps la lo al sa s
  | .encBattery v a c => Sys2Proof.Machine.execEncBattery v a c s
  | .encAttitude p r y => Sys2Proof.Machine.execEncAttitude p r y s
  | .encFlightMode n => Sys2Proof.Machine.execEncFlightMode n s

end Sys2Proof.Machine
end

