-- ==== Sys2Proof/WellFormed.lean ====
section
/-! DEFINITION. Which instructions an encoding can stand for. -/

namespace Sys2Proof

open Machine (lengthLegal allAscii)

/-- A received frame agrees with its length byte: `2 ≤ length ≤ 62` and `#payload = length - 2`
(30_encoding.md R51). -/
def rxWellFormed (length : Byte) (payload : List Byte) : Bool :=
  lengthLegal length && payload.length + 2 == length.toNat

/-- A flight-mode payload is a name of at most 59 ASCII bytes and one terminating 0x00
(30_encoding.md R60). -/
def flightModeWellFormed (payload : List Byte) : Bool :=
  payload.length ≤ Config.modeMax + 1 && payload.getLast? == some 0x00
    && payload.all (fun b => b.toNat ≤ 0x7F)

/-- The check on an instruction's fields. -/
def Instr.wellFormed : Instr → Bool
  | .rcChannelsPacked n p _ => rxWellFormed n p
  | .linkStatistics n p _ => rxWellFormed n p
  | .rxUnrecognised t n p _ =>
      rxWellFormed n p && t != Config.typeRcChannels && t != Config.typeLinkStatistics
  | .battery _ _ _ => true
  | .gps _ _ _ _ => true
  | .attitude _ _ _ => true
  | .flightMode p => flightModeWellFormed p
  | .poll => true
  | .crc8 _ => true
  | .getChannelPercent _ => true
  | .isConnected _ => true
  | .readState => true
  | .encGps _ _ _ _ => true
  | .encBattery _ _ _ => true
  | .encAttitude _ _ _ => true
  | .encFlightMode _ => true

/-- The check as a proposition. -/
abbrev Instr.WellFormed (i : Instr) : Prop := i.wellFormed = true

end Sys2Proof
end

