-- ==== Sys2Proof/Decode.lean ====
section
/-! DEFINITION. From an encoded instruction to an instruction, and back. -/

namespace Sys2Proof

open Machine (payloadExtent beValue batteryPayload gpsPayload attitudePayload frameOf byteOf)

/-- The select code of a host operation, 30_encoding.md R66. -/
def selectCode : HostOp → Byte
  | .poll => 0x80
  | .crc8 => 0x81
  | .getChannelPercent => 0x82
  | .isConnected => 0x83
  | .readState => 0x84
  | .encGps => 0x02
  | .encBattery => 0x08
  | .encAttitude => 0x1E
  | .encFlightMode => 0x21

/-- The operation a select code names; a code outside the table names none (30_encoding.md R66). -/
def opOfCode (code : Byte) : Option HostOp :=
  [HostOp.poll, .crc8, .getChannelPercent, .isConnected, .readState,
    .encGps, .encBattery, .encAttitude, .encFlightMode].find? (fun op => selectCode op == code)

/-- A rational as an integer operand; none when it is not an integer (U21). -/
def asInteger (q : Rat) : Option Int := if q.den = 1 then some q.num else none

/-- The instruction a host operation and its operands make, 30_encoding.md R66. Operands outside the
operand types are refused (U21), log 15. -/
def hostInstr : HostOp → List Arg → Except DecodeError Instr
  | .poll, [] => .ok .poll
  | .crc8, [.bytes s] => .ok (.crc8 s)
  | .getChannelPercent, [.num q] =>
      match asInteger q with
      | some i => .ok (.getChannelPercent i)
      | none => .error .operandsDoNotFit
  | .isConnected, [] => .ok (.isConnected none)
  | .isConnected, [.time t] => .ok (.isConnected (some t))
  | .readState, [] => .ok .readState
  | .encGps, [.num lat, .num lon, .num alt, .num sats] =>
      match asInteger sats with
      | some n => .ok (.encGps lat lon alt n)
      | none => .error .operandsDoNotFit
  | .encBattery, [.num v, .num a, .num cap] =>
      match asInteger cap with
      | some n => .ok (.encBattery v a n)
      | none => .error .operandsDoNotFit
  | .encAttitude, [.num p, .num r, .num y] => .ok (.encAttitude p r y)
  | .encFlightMode, [.text name] => .ok (.encFlightMode name)
  | _, _ => .error .operandsDoNotFit

/-- Decoding a host invocation. -/
def decodeCall (c : Call) : Except DecodeError Instr :=
  match opOfCode c.code with
  | none => .error .noSuchOperation
  | some op => hostInstr op c.args

/-- The received-frame instruction of a type byte, 30_encoding.md R54: 0x16, 0x14, or any other. -/
def rxInstr (t n : Byte) (p : List Byte) (crc : Byte) : Instr :=
  if t = Config.typeRcChannels then .rcChannelsPacked n p crc
  else if t = Config.typeLinkStatistics then .linkStatistics n p crc
  else .rxUnrecognised t n p crc

/-- Decoding a received frame at the head of a byte sequence: the instruction and the bytes behind
it. The length byte alone tells where the frame ends (30_encoding.md R50, R52). The CRC byte and the
length byte are operands; what the block makes of them is step S4 to S6 (30_encoding.md R63), log 14. -/
def decodeRx : List Byte → Except DecodeError (Instr × List Byte)
  | sync :: n :: t :: rest =>
      if sync = Config.syncByte then
        match rest.drop (payloadExtent n) with
        | crc :: behind => .ok (rxInstr t n (rest.take (payloadExtent n)) crc, behind)
        | [] => .error .tooShort
      else .error .badSync
  | _ => .error .tooShort

/-- The built-frame instruction of a type byte and a payload, 30_encoding.md R57 to R60, R64. That a
FLIGHT_MODE payload is a name and 0x00 is WellFormed's check (log 28). -/
def txInstr (t : Byte) (p : List Byte) : Except DecodeError Instr :=
  if t = Config.typeBattery then
    match p with
    | [v1, v0, a1, a0, c2, c1, c0, percent] =>
        if percent = 0x00 then
          .ok (.battery (BitVec.ofNat 16 (beValue [v1, v0])) (BitVec.ofNat 16 (beValue [a1, a0]))
            (BitVec.ofNat 24 (beValue [c2, c1, c0])))
        else .error .fixedFieldNotZero
    | _ => .error .badPayloadLength
  else if t = Config.typeGps then
    match p with
    | [la3, la2, la1, la0, lo3, lo2, lo1, lo0, g1, g0, h1, h0, al1, al0, sats] =>
        if [g1, g0, h1, h0] = [0x00, 0x00, 0x00, 0x00] then
          .ok (.gps (BitVec.ofNat 32 (beValue [la3, la2, la1, la0]))
            (BitVec.ofNat 32 (beValue [lo3, lo2, lo1, lo0])) (BitVec.ofNat 16 (beValue [al1, al0])) sats)
        else .error .fixedFieldNotZero
    | _ => .error .badPayloadLength
  else if t = Config.typeAttitude then
    match p with
    | [p1, p0, r1, r0, y1, y0] =>
        .ok (.attitude (BitVec.ofNat 16 (beValue [p1, p0])) (BitVec.ofNat 16 (beValue [r1, r0]))
          (BitVec.ofNat 16 (beValue [y1, y0])))
    | _ => .error .badPayloadLength
  else if t = Config.typeFlightMode then .ok (.flightMode p)
  else .error .notABuiltType

/-- Decoding a built frame at the head of a byte sequence: the instruction and the bytes behind the
frame. Its CRC byte is BUILD's own result (43_encoder.md R130), not an operand, and is not read. -/
def decodeTx : List Byte → Except DecodeError (Instr × List Byte)
  | sync :: n :: t :: rest =>
      if sync = Config.syncByte then
        if rest.length < payloadExtent n + 1 then .error .tooShort
        else
          match txInstr t (rest.take (payloadExtent n)) with
          | .ok i => .ok (i, rest.drop (payloadExtent n + 1))
          | .error e => .error e
      else .error .badSync
  | _ => .error .tooShort

/-- The decoder, total on every encoded instruction. -/
def decode : Encoded → Except DecodeError Instr
  | .call c => decodeCall c
  | .rxFrame bytes => (decodeRx bytes).map Prod.fst
  | .txFrame bytes => (decodeTx bytes).map Prod.fst

/-- A received frame on the wire, 30_encoding.md R50. -/
def rxBytes (t n : Byte) (p : List Byte) (crc : Byte) : List Byte :=
  [Config.syncByte, n, t] ++ p ++ [crc]

/-- A host invocation with its select code, 30_encoding.md R66. -/
def callOf (op : HostOp) (args : List Arg) : Encoded := .call ⟨selectCode op, args⟩

/-- The encoder: the wire frame of a frame instruction (30_encoding.md R50 and R55 to R60), the
select code and operands of a host operation (30_encoding.md R66). -/
def encode : Instr → Encoded
  | .rcChannelsPacked n p crc => .rxFrame (rxBytes Config.typeRcChannels n p crc)
  | .linkStatistics n p crc => .rxFrame (rxBytes Config.typeLinkStatistics n p crc)
  | .rxUnrecognised t n p crc => .rxFrame (rxBytes t n p crc)
  | .battery v a c => .txFrame (frameOf Config.typeBattery (batteryPayload v a c))
  | .gps la lo al sa => .txFrame (frameOf Config.typeGps (gpsPayload la lo al sa))
  | .attitude p r y => .txFrame (frameOf Config.typeAttitude (attitudePayload p r y))
  | .flightMode p => .txFrame (frameOf Config.typeFlightMode p)
  | .poll => callOf .poll []
  | .crc8 s => callOf .crc8 [.bytes s]
  | .getChannelPercent i => callOf .getChannelPercent [.num i]
  | .isConnected none => callOf .isConnected []
  | .isConnected (some t) => callOf .isConnected [.time t]
  | .readState => callOf .readState []
  | .encGps la lo al sa => callOf .encGps [.num la, .num lo, .num al, .num sa]
  | .encBattery v a c => callOf .encBattery [.num v, .num a, .num c]
  | .encAttitude p r y => callOf .encAttitude [.num p, .num r, .num y]
  | .encFlightMode name => callOf .encFlightMode [.text name]

/-- Is a header (length byte, type byte) one of the four tx_frame rows of the opcode table
(30_encoding.md R65)? DESIGN CHOICE: type 0x21 is one with every length byte, as the row's mask has it, also
outside 03 to 3E, where R65 gives no built FLIGHT_MODE; with those it reads as an empty payload, which is
not well-formed (log 28). -/
def isTxHeader (n t : Byte) : Bool :=
  (t == Config.typeBattery && n == 0x0A) || (t == Config.typeGps && n == 0x11)
    || (t == Config.typeAttitude && n == 0x08) || t == Config.typeFlightMode

/-- Operands that are all zero (the empty sequence, 0, the empty name), for a select code alone. -/
def zeroArgs : HostOp → List Arg
  | .poll => []
  | .crc8 => [.bytes []]
  | .getChannelPercent => [.num 0]
  | .isConnected => [.time 0]
  | .readState => []
  | .encGps => [.num 0, .num 0, .num 0, .num 0]
  | .encBattery => [.num 0, .num 0, .num 0]
  | .encAttitude => [.num 0, .num 0, .num 0]
  | .encFlightMode => [.text []]

/-- The host invocation of a select code with operands that are all zero. -/
def zeroCall (code : Byte) : Call := ⟨code, ((opOfCode code).map zeroArgs).getD []⟩

/-- A three-byte header as opcode_table.json numbers its bits (wire byte 0 in bits 23 to 16), then
zeros up to the longest frame, in wire order. -/
def headerBytes (w : Nat) : List Byte :=
  [byteOf w 2, byteOf w 1, byteOf w 0] ++ List.replicate 61 0x00

/-- What the decoder reads from a word of opcode_table.json: an 8-bit select code, or the first three
wire bytes of a frame. The frame rows of the two directions overlap; a header of a tx_frame row is
read as that row, any other as a received frame (log 13). -/
def decodeTableWord (nbits w : Nat) : Option Instr :=
  if nbits = 8 then (decode (.call (zeroCall (byteOf w 0)))).toOption
  else if nbits = 24 then
    if isTxHeader (byteOf w 1) (byteOf w 0) then (decode (.txFrame (headerBytes w))).toOption
    else (decode (.rxFrame (headerBytes w))).toOption
  else none

end Sys2Proof
end

