-- ==== Sys2Proof/Machine/Fetch.lean ====
section
/-! DEFINITION. What moves next, and where an instruction is fetched from: the host's invocation, the
frame S1 to S5 took from the RX queue, or the frame being built. -/

namespace Sys2Proof.Machine

/-- The next move: an instruction fetched, to be decoded and run on a state, or a move that is no
instruction of the table. -/
inductive Move
  | run (e : Encoded) (s : State)
  | done (o : Host.Outcome State Fault Refusal)

/-- The block's own next move: the next step of a POLL in progress (41_synchronizer.md R97), the BUILD of
an ENC operation in progress (43_encoder.md R130), or nothing (60_exceptions.md R163, log 22). At S6
the instruction is the frame received; while a frame is being built it is that frame. -/
def blockMove (s : State) : Move :=
  match s.phase with
  | .s1 => .done (.next (moveS1 s))
  | .s2 => .done (.next (moveS2 s))
  | .s3 => .done (.next (moveS3 s))
  | .s4 => .done (moveS4 s)
  | .s5 => .done (moveS5 s)
  | .s6 =>
    match s.len, s.d with
    | some n, some d => .run (.rxFrame (Config.syncByte :: n :: d)) s
    | _, _ => .done (.fault .transientMissing)
  | .idle =>
    match s.building with
    | some (t, p) => .run (.txFrame (frameOf t p)) s
    | none => .done (.next s)

/-- The next move of the whole: the first event of `env`, or the block's own move. An invocation waits
until no operation is in progress (20_memory.md R40, log 10). -/
def nextMove (s : State) : Move :=
  match s.env with
  | [] => blockMove s
  | .blockMoves :: later => blockMove { s with env := later }
  | .overlappingRead _ :: later => blockMove { s with env := later }
  | .rxArrive b :: later => .done (.next (rxArrive b { s with env := later }))
  | .timeAdvances ms :: later => .done (.next (timeAdvances ms { s with env := later }))
  | .samplesNow :: later => .done (.next (samplesNow { s with env := later }))
  | .invoke c :: later => if busy s then blockMove s else .run (.call c) { s with env := later }

/-- What a second reader sees of the move, if one reads during it (20_memory.md R42). -/
def observe (s : State) (o : Host.Outcome State Fault Refusal) : Host.Outcome State Fault Refusal :=
  match s.env with
  | .overlappingRead pick :: _ => overlap pick s.ls o
  | _ => o

/-- Place a select code or a frame header of spec/opcode_table.json where the next move fetches it: a
select code as the host's invocation with zero operands, a tx_frame header as the frame being built,
a received-frame header as the frame S5 obtained, with zeros behind the header (log 24). A header without
the sync byte is no frame: it goes to the RX queue for S2 to reject. A type 0x21 header with a length byte
outside 03 to 3E is placed as a built frame with an empty payload (log 28). -/
def placeWord (nbits w : Nat) (s : State) : State :=
  let n := byteOf w 1
  let t := byteOf w 0
  if nbits = 8 then
    { s with phase := .idle, len := none, d := none, stamp := none, building := none,
             env := .invoke (zeroCall (byteOf w 0)) :: s.env }
  else if byteOf w 2 ≠ Config.syncByte then
    { s with phase := .s2, len := none, d := none, stamp := none, building := none,
             rxq := headerBytes w, env := .blockMoves :: s.env }
  else if isTxHeader n t then
    { s with phase := .idle, len := none, d := none, stamp := none,
             building := some (t, List.replicate (payloadExtent n) 0x00), env := .blockMoves :: s.env }
  else
    { s with phase := .s6, len := some n, d := some (t :: List.replicate (payloadExtent n + 1) 0x00),
             stamp := none, building := none, env := .blockMoves :: s.env }

end Sys2Proof.Machine
end

