-- ==== Sys2Proof/Machine/Step.lean ====
section
/-! DEFINITION. One step of the machine. -/

namespace Sys2Proof.Machine

/-- Decode and run what was fetched. -/
def runMove : Move → Host.Outcome State Fault Refusal
  | .done o => o
  | .run e s =>
    match decode e with
    | .ok i => exec i s
    | .error err => .refused (.undecodable err)

/-- One step: the next move, seen by a second reader if one reads during it. -/
def step (s : State) : Host.Outcome State Fault Refusal := observe s (runMove (nextMove s))

/-- The state whose next step fetches and runs a word of spec/opcode_table.json. -/
def State.withFetchWord (s : State) (nbits w : Nat) : State := placeWord nbits w s

end Sys2Proof.Machine
end

