-- ==== Sys2Proof/Machine/Flags.lean ====
section
/-! DEFINITION. The block has no status flags (10_state.md R20): an operation reports through its own
result. Here are the codes the spec gives those results (60_exceptions.md R150, R153). -/

namespace Sys2Proof.Machine

/-- The code of a reject cause, 60_exceptions.md R150. -/
def causeCode : Cause → Nat
  | .noData => 1
  | .badSync => 2
  | .noLength => 3
  | .badLength => 4
  | .truncated => 5
  | .badCrc => 6

/-- The result code of an operation: 0 for a frame, 1 to 6 for a reject, 7 for EncodingError
(60_exceptions.md R150, R153); the other results have no code. -/
def resultCode : Result → Option Nat
  | .frame _ _ => some 0
  | .noFrame c => some (causeCode c)
  | .encodingError => some 7
  | .crc _ => none
  | .percent _ => none
  | .connected _ => none
  | .linkState _ => none
  | .sent _ => none

/-- The two-valued outcome of a POLL, all that the source's caller sees (41_synchronizer.md R90, D4). -/
def gotFrame : Result → Bool
  | .frame _ _ => true
  | _ => false

end Sys2Proof.Machine
end

