-- ==== Sys2Proof/Safety.lean ====
section
/-! DEFINITION. What a good state is, and the terms the statements use. -/

namespace Sys2Proof.Machine

/-- `k` steps, stopping at the first fault or refusal: the run of `Sys2Proof.core` (Laws/Run.lean). -/
def steps : Nat → State → Host.Outcome State Fault Refusal
  | 0, s => .next s
  | k + 1, s =>
    match step s with
    | .next t => steps k t
    | .fault f => .fault f
    | .refused r => .refused r

/-- The transients of a POLL hold values exactly where the algorithm has read them (10_state.md R15,
41_synchronizer.md R93 to R95): the length byte from S3 on, the body from S5 on. -/
def transientsFit (s : State) : Bool :=
  match s.phase, s.len, s.d with
  | .idle, none, none => true
  | .s1, none, none => true
  | .s2, none, none => true
  | .s3, none, none => true
  | .s4, some _, none => true
  | .s5, some n, none => lengthLegal n
  | .s6, some n, some d => lengthLegal n && d.length == n.toNat
  | _, _, _ => false

/-- A POLL's sample of the timer is held only within it (10_state.md R15, 42_decoder.md R115). -/
def stampFits (s : State) : Bool := s.phase != .idle || s.stamp.isNone

/-- A frame is being built only outside a POLL, and only one of the four the block builds
(20_memory.md R40, 30_encoding.md R64). -/
def buildingFits (s : State) : Bool :=
  match s.building with
  | none => true
  | some (t, p) =>
    s.phase == .idle && (match txInstr t p with | .ok i => i.wellFormed | .error _ => false)

/-- The invariant of the machine. -/
abbrev Inv (s : State) : Prop := (transientsFit s && stampFits s && buildingFits s) = true

/-- The step after a step, 10_state.md R16: `IDLE -> S1 -> S2 -> S3 -> S4 -> S5 -> S6 -> IDLE`. -/
def phaseAfter : Phase → Phase
  | .idle => .s1
  | .s1 => .s2
  | .s2 => .s3
  | .s3 => .s4
  | .s4 => .s5
  | .s5 => .s6
  | .s6 => .idle

/-- The byte an event brings to the RX queue, if it is an arrival (20_memory.md R31). -/
def arriving : Event → Option Byte
  | .rxArrive b => some b
  | .invoke _ | .timeAdvances _ | .samplesNow | .blockMoves | .overlappingRead _ => none

/-- Each register of `v` is that of `old` or that of `new` (20_memory.md R42). -/
def EachOldOrNew (old new v : LinkState) : Prop :=
  (∀ i : Fin 16, v.channels[i] = old.channels[i] ∨ v.channels[i] = new.channels[i]) ∧
  (v.linkQuality = old.linkQuality ∨ v.linkQuality = new.linkQuality) ∧
  (v.rssiDbm = old.rssiDbm ∨ v.rssiDbm = new.rssiDbm) ∧
  (v.lastPacketTime = old.lastPacketTime ∨ v.lastPacketTime = new.lastPacketTime)

/-- The instructions of the transmit side: the four ENC operations and the four built frames. -/
def isTransmit : Instr → Bool
  | .encGps _ _ _ _ | .encBattery _ _ _ | .encAttitude _ _ _ | .encFlightMode _ => true
  | .gps _ _ _ _ | .battery _ _ _ | .attitude _ _ _ | .flightMode _ => true
  | .rcChannelsPacked _ _ _ | .linkStatistics _ _ _ | .rxUnrecognised _ _ _ _ => false
  | .poll | .crc8 _ | .getChannelPercent _ | .isConnected _ | .readState => false

end Sys2Proof.Machine
end

