-- ==== Sys2Proof/Certificates/Slice0/Obligations.lean ====
section
/-! DEFINITION. The statements for the provers. `s.stamp.getD s.now` is the timer's count DECODE writes:
the one sampled earlier in the POLL, or else the present one (42_decoder.md R115, log 8). -/

open Sys2Proof Sys2Proof.Machine

/-! ## Encoding -/

/-- D27, 30_encoding.md R50 to R60, R66: decoding the encoding of a well-formed instruction gives it
back. -/
def Obligations.DecodeOfEncodeIsTheInstruction : Prop :=
  ∀ i : Instr, i.WellFormed → decode (encode i) = .ok i

/-- 30_encoding.md R52: a frame has `length + 2 = #payload + 4` bytes, from 4 to 64, and the bytes
behind it, whatever they are, do not matter to how it is read. -/
def Obligations.FrameEndsWhereItsLengthByteSays : Prop :=
  (∀ (t n : Byte) (p : List Byte) (crc : Byte) (behind : List Byte), rxWellFormed n p = true →
    decodeRx (rxBytes t n p crc ++ behind) = .ok (rxInstr t n p crc, behind) ∧
    (rxBytes t n p crc).length = n.toNat + 2 ∧ (rxBytes t n p crc).length = p.length + 4 ∧
    4 ≤ (rxBytes t n p crc).length ∧ (rxBytes t n p crc).length ≤ 64) ∧
  (∀ (t : Byte) (p : List Byte) (i : Instr) (behind : List Byte), p.length ≤ 60 → txInstr t p = .ok i →
    decodeTx (frameOf t p ++ behind) = .ok (i, behind) ∧ (frameOf t p).length = p.length + 4)

/-- 30_encoding.md R66 (the codes are the spec's decision D3): the nine select codes; any other code is
refused by a machine that would otherwise run the invocation. -/
def Obligations.SelectCodesNameTheirOperations : Prop :=
  [HostOp.poll, .crc8, .getChannelPercent, .isConnected, .readState,
    .encGps, .encBattery, .encAttitude, .encFlightMode].map selectCode =
      [0x80, 0x81, 0x82, 0x83, 0x84, 0x02, 0x08, 0x1E, 0x21] ∧
  (∀ op : HostOp, opOfCode (selectCode op) = some op) ∧
  (∀ (s : State) (c : Call) (later : List Event), busy s = false → s.env = .invoke c :: later →
    (∀ op : HostOp, selectCode op ≠ c.code) → step s = .refused (.undecodable .noSuchOperation))

/-- 30_encoding.md R50, R55 to R60, R66 and 95_test_vectors.md: a few words of the spec, decoded. -/
def Obligations.WordsOfTheSpecDecode : Prop :=
  decode (.call ⟨0x80, []⟩) = .ok .poll ∧
  decode (.call ⟨0x82, [.num 3]⟩) = .ok (.getChannelPercent 3) ∧
  decode (.rxFrame [0xC8, 0x03, 0x7F, 0xAA, 0xCE]) = .ok (.rxUnrecognised 0x7F 0x03 [0xAA] 0xCE) ∧
  decode (.rxFrame [0xC8, 0x07, 0x14, 0x01, 0x02, 0x03, 0x04, 0x05, 0x08]) =
    .ok (.linkStatistics 0x07 [0x01, 0x02, 0x03, 0x04, 0x05] 0x08) ∧
  decode (.rxFrame [0xC8, 0x03, 0x16, 0x55, 0x00]) = .ok (.rcChannelsPacked 0x03 [0x55] 0x00) ∧
  decode (.txFrame [0xC8, 0x0A, 0x08, 0x00, 0xA8, 0x00, 0xFF, 0x00, 0x04, 0xE2, 0x00, 0x38]) =
    .ok (.battery 168 255 1250) ∧
  decode (.txFrame [0xC8, 0x08, 0x1E, 0x1E, 0xAD, 0xC2, 0xA5, 0x7A, 0xB7, 0xF8]) =
    .ok (.attitude 7853 (BitVec.ofInt 16 (-15707)) 31415) ∧
  decode (.txFrame [0xC8, 0x07, 0x21, 0x41, 0x43, 0x52, 0x4F, 0x00, 0x80]) =
    .ok (.flightMode [0x41, 0x43, 0x52, 0x4F, 0x00])

/-- 30_encoding.md R65, which the spec derives from R51 to R60: the fixed header bytes and total size of
each frame. -/
def Obligations.HeaderBytesOfEachFrame : Prop :=
  (∀ (n : Byte) (p : List Byte) (crc : Byte), rxWellFormed n p = true → p.length = 22 →
    (rxBytes 0x16 n p crc).take 3 = [0xC8, 0x18, 0x16] ∧ (rxBytes 0x16 n p crc).length = 26) ∧
  (∀ (n : Byte) (p : List Byte) (crc : Byte), rxWellFormed n p = true → 6 ≤ p.length →
    (rxBytes 0x14 n p crc).take 3 = [0xC8, n, 0x14] ∧ 0x08 ≤ n.toNat ∧ n.toNat ≤ 0x3E ∧
    10 ≤ (rxBytes 0x14 n p crc).length ∧ (rxBytes 0x14 n p crc).length ≤ 64) ∧
  (∀ (v a : BitVec 16) (c : BitVec 24),
    (frameOf 0x08 (batteryPayload v a c)).take 3 = [0xC8, 0x0A, 0x08] ∧
    (frameOf 0x08 (batteryPayload v a c)).length = 12) ∧
  (∀ (la lo : BitVec 32) (al : BitVec 16) (sa : Byte),
    (frameOf 0x02 (gpsPayload la lo al sa)).take 3 = [0xC8, 0x11, 0x02] ∧
    (frameOf 0x02 (gpsPayload la lo al sa)).length = 19) ∧
  (∀ (p r y : BitVec 16),
    (frameOf 0x1E (attitudePayload p r y)).take 3 = [0xC8, 0x08, 0x1E] ∧
    (frameOf 0x1E (attitudePayload p r y)).length = 10) ∧
  (∀ name : List Nat, name.length ≤ 59 →
    (frameOf 0x21 (flightModePayload name)).take 3 = [0xC8, BitVec.ofNat 8 (name.length + 3), 0x21] ∧
    (frameOf 0x21 (flightModePayload name)).length = name.length + 5)

/-- What is fetched is D27's reading of the block (logs 11, 13): when it decodes, `step` is `exec` of
it: the host's invocation when no operation is in progress (20_memory.md R40), the frame received at S6
(41_synchronizer.md R96), the frame being built (43_encoder.md R130). The step takes the event it
follows out of `env`, nothing else. -/
def Obligations.StepRunsTheDecodedInstruction : Prop :=
  (∀ (s : State) (c : Call) (later : List Event) (i : Instr), busy s = false →
    s.env = .invoke c :: later → decode (.call c) = .ok i → step s = exec i { s with env := later }) ∧
  (∀ (s : State) (n : Byte) (d : List Byte) (later : List Event) (i : Instr),
    s.phase = .s6 → s.len = some n → s.d = some d → decode (.rxFrame (0xC8 :: n :: d)) = .ok i →
    (s.env = [] → step s = exec i s) ∧
    (s.env = .blockMoves :: later → step s = exec i { s with env := later })) ∧
  (∀ (s : State) (t : Byte) (p : List Byte) (later : List Event) (i : Instr),
    s.phase = .idle → s.building = some (t, p) → decode (.txFrame (frameOf t p)) = .ok i →
    (s.env = [] → step s = exec i s) ∧
    (s.env = .blockMoves :: later → step s = exec i { s with env := later }))

/-! ## CRC8 -/

/-- 40_crc8.md R82, which the spec derives: the table-driven form computes the function of the
bit-serial form R80. -/
def Obligations.TableDrivenCrcIsTheBitSerialCrc : Prop := ∀ s : List Byte, crc8 s = crc8Serial s

/-- 40_crc8.md R81, computed by the spec from R80: the printed table holds, at `i`, the value of the
eight inner steps of R80 started from `i`, which is `CRC8([i])`. -/
def Obligations.CrcTableHoldsTheInnerSteps : Prop :=
  crcTable.length = 256 ∧ ∀ i : Byte, crcEntry i = crcShift8 i ∧ crcEntry i = crc8 [i]

/-- 40_crc8.md R83 (a) to (g), which the spec derives from R80 to R82. -/
def Obligations.CrcLaws : Prop :=
  crc8 [] = 0x00 ∧
  (∀ s : List Byte, crc8 (0x00 :: s) = crc8 s) ∧
  pollFn [0xC8, 0x02, 0x00, 0x00] = ([], .frame 0x00 []) ∧
  Function.Bijective crcEntry ∧
  (∀ a b : List Byte, a.length = b.length →
    crc8 (List.zipWith (fun x y => x ^^^ y) a b) = crc8 a ^^^ crc8 b) ∧
  (∀ s : List Byte, crc8 (s ++ [crc8 s]) = 0x00) ∧
  (∀ (s : List Byte) (k : Nat) (b : Byte), k < s.length → s[k]? ≠ some b →
    crc8 (s.set k b) ≠ crc8 s) ∧
  (∃ a b : List Byte, a.length = b.length ∧ a ≠ b ∧ crc8 a = crc8 b) ∧
  (∀ body : List Byte, ∃! c : Byte, crc8 (body ++ [c]) = 0x00)

/-! ## The synchronizer -/

/-- 41_synchronizer.md R91: step S1 rejects with NO_DATA on fewer than two bytes and touches no byte; no
other reject leaves the queue as it was. -/
def Obligations.StepS1RejectsBelowTwoBytes : Prop :=
  (∀ s : State, s.phase = .s1 → s.env = [] →
    (s.rxq.length < 2 → step s =
      .next { s with phase := .idle, len := none, d := none, stamp := none,
                     result := some (.noFrame .noData) }) ∧
    (2 ≤ s.rxq.length → step s = .next { s with phase := .s2 })) ∧
  (∀ (q : List Byte) (c : Cause), (pollFn q).2 = .noFrame c → (pollFn q).1 = q → c = .noData)

/-- 41_synchronizer.md R92: step S2 takes one byte; when it is not 0xC8, all that is buffered goes with
it. -/
def Obligations.StepS2FlushesOnBadSync : Prop :=
  ∀ (s : State) (b : Byte) (rest : List Byte), s.phase = .s2 → s.env = [] → s.rxq = b :: rest →
    (b = 0xC8 → step s = .next { s with phase := .s3, rxq := rest }) ∧
    (b ≠ 0xC8 → step s =
      .next { s with phase := .idle, len := none, d := none, stamp := none, rxq := [],
                     result := some (.noFrame .badSync) })

/-- The spec's decision D6 (41_synchronizer.md R92, "treated as a mismatch"): an empty read at S2, which
no run reaches (S1 saw two bytes), is BAD_SYNC. -/
def Obligations.EmptyReadAtS2IsBadSync : Prop :=
  ∀ s : State, s.phase = .s2 → s.env = [] → s.rxq = [] →
    step s = .next { s with phase := .idle, len := none, d := none, stamp := none,
                            result := some (.noFrame .badSync) }

/-- 41_synchronizer.md R93: step S3 takes the length byte, or rejects without a flush when there is
none. -/
def Obligations.StepS3ReadsTheLengthByte : Prop :=
  ∀ s : State, s.phase = .s3 → s.env = [] →
    (∀ (n : Byte) (rest : List Byte), s.rxq = n :: rest →
      step s = .next { s with phase := .s4, len := some n, rxq := rest }) ∧
    (s.rxq = [] → step s =
      .next { s with phase := .idle, len := none, d := none, stamp := none,
                     result := some (.noFrame .noLength) })

/-- 41_synchronizer.md R94: step S4 rejects a length byte below 2 or above 62 and consumes nothing. -/
def Obligations.StepS4RejectsIllegalLengths : Prop :=
  ∀ (s : State) (n : Byte), s.phase = .s4 → s.len = some n → s.env = [] →
    (n.toNat < 2 ∨ 62 < n.toNat → step s =
      .next { s with phase := .idle, len := none, d := none, stamp := none,
                     result := some (.noFrame .badLength) }) ∧
    (2 ≤ n.toNat ∧ n.toNat ≤ 62 → step s = .next { s with phase := .s5 })

/-- 41_synchronizer.md R95: step S5 takes `length` bytes, or rejects and drops every byte it got. -/
def Obligations.StepS5DropsATruncatedFrame : Prop :=
  ∀ (s : State) (n : Byte), s.phase = .s5 → s.len = some n → s.env = [] →
    (s.rxq.length < n.toNat → step s =
      .next { s with phase := .idle, len := none, d := none, stamp := none, rxq := [],
                     result := some (.noFrame .truncated) }) ∧
    (n.toNat ≤ s.rxq.length → step s =
      .next { s with phase := .s6, d := some (s.rxq.take n.toNat), rxq := s.rxq.drop n.toNat })

/-- 41_synchronizer.md R96, 42_decoder.md R115: step S6 compares the CRC; on a mismatch Link State is not
touched, on a match DECODE runs and the outcome is the frame. Nothing more is consumed. That the time
written is the count sampled in the POLL, at an instant of the block's choosing, is the model's choice on
the spec's decision D10 (log 8). -/
def Obligations.StepS6ChecksTheCrcAndDecodes : Prop :=
  ∀ (s : State) (n t c : Byte) (p : List Byte),
    s.phase = .s6 → s.len = some n → s.d = some (t :: p ++ [c]) → rxWellFormed n p = true →
    s.env = [] →
    (crc8 (t :: p) ≠ c → step s =
      .next { s with phase := .idle, len := none, d := none, stamp := none,
                     result := some (.noFrame .badCrc) }) ∧
    (crc8 (t :: p) = c → step s =
      .next { s with ls := decodeFrame t p (s.stamp.getD s.now) s.ls,
                     phase := .idle, len := none, d := none, stamp := none, result := some (.frame t p) })

/-- 41_synchronizer.md R97: a POLL during which no byte arrives is the function `PollFn` of the queue,
with DECODE exactly on outcome "frame". -/
def Obligations.PollIsPollFnWhenNothingArrives : Prop :=
  ∀ s : State, busy s = false → s.env = [] →
    exec .poll s = .next { s with phase := .s1, len := none, d := none, stamp := none, result := none } ∧
    steps 6 { s with phase := .s1, len := none, d := none, stamp := none, result := none } =
      .next { s with phase := .idle, len := none, d := none, stamp := none,
                     rxq := (pollFn s.rxq).1, result := some (pollFn s.rxq).2,
                     ls := match (pollFn s.rxq).2 with
                       | .frame t p => decodeFrame t p s.now s.ls
                       | _ => s.ls }

/-- 41_synchronizer.md R98: the bytes a POLL removes, by outcome. -/
def Obligations.BytesConsumedByEachOutcome : Prop :=
  ∀ q : List Byte,
    ((pollFn q).2 = .noFrame .noData → (pollFn q).1 = q) ∧
    ((pollFn q).2 = .noFrame .badSync → (pollFn q).1 = []) ∧
    (pollFn q).2 ≠ .noFrame .noLength ∧
    ((pollFn q).2 = .noFrame .badLength → (pollFn q).1.length + 2 = q.length ∧ (pollFn q).1 = q.drop 2) ∧
    ((pollFn q).2 = .noFrame .truncated →
      (pollFn q).1 = [] ∧ q.length < (q.getD 1 0).toNat + 2) ∧
    ((pollFn q).2 = .noFrame .badCrc ∨ (∃ t p, (pollFn q).2 = .frame t p) →
      (pollFn q).1.length + ((q.getD 1 0).toNat + 2) = q.length ∧
      (pollFn q).1 = q.drop ((q.getD 1 0).toNat + 2))

/-- 41_synchronizer.md R101 (d), 20_memory.md R38: POLLs on a queue of fewer than two bytes change
nothing, however many. -/
def Obligations.PollingAnEmptyQueueChangesNothing : Prop :=
  ∀ (k : Nat) (s : State), busy s = false → s.rxq.length < 2 →
    s.env = List.replicate k (.invoke ⟨0x80, []⟩) →
    ∃ u : State, steps (2 * k) s = .next u ∧ busy u = false ∧ u.env = [] ∧
      u.ls = s.ls ∧ u.rxq = s.rxq ∧ u.txlog = s.txlog ∧ u.now = s.now ∧
      (0 < k → u.result = some (.noFrame .noData))

/-- 43_encoder.md R130 and 41_synchronizer.md R100 (f): every frame BUILD produces is accepted by this
block's own synchronizer, and what stands behind it stays for the next POLL. -/
def Obligations.BuiltFramesAreAccepted : Prop :=
  ∀ (t : Byte) (p rest : List Byte), p.length ≤ 60 → pollFn (frameOf t p ++ rest) = (rest, .frame t p)

/-- 41_synchronizer.md R101 (c), R100 (g): one changed byte anywhere in type, payload or CRC byte gives
BAD_CRC, and the frame is consumed whole, so what follows stays aligned. -/
def Obligations.OneCorruptedByteIsRejected : Prop :=
  ∀ (t : Byte) (p rest : List Byte) (k : Nat) (b : Byte), p.length ≤ 60 → k < p.length + 2 →
    (frameOf t p)[k + 2]? ≠ some b →
    pollFn ((frameOf t p).set (k + 2) b ++ rest) = (rest, .noFrame .badCrc)

/-- 70_reset_and_hazards.md R174, 41_synchronizer.md R100 (d): a frame of which only a part (at least
two bytes) is queued is lost, and the POLL that meets its tail flushes the tail and all behind it. -/
def Obligations.ChunkedFrameIsLostWithWhatFollows : Prop :=
  ∀ (t : Byte) (p front back behind : List Byte), p.length ≤ 60 → frameOf t p = front ++ back →
    2 ≤ front.length → back ≠ [] →
    pollFn front = ([], .noFrame .truncated) ∧
    (back.head? ≠ some 0xC8 → 2 ≤ (back ++ behind).length →
      pollFn (back ++ behind) = ([], .noFrame .badSync))

/-- 20_memory.md R41 (arrivals as events: log 6): bytes that arrive during the POLL, before S5, complete a
frame that was incomplete at S1, wherever among the moves S1 to S4 each of them arrives: `early` is any
interleaving of the arrivals with at most four moves, `k` moves follow as events, and what comes later
stays to come; when nothing comes later, the block makes the remaining moves by itself. -/
def Obligations.ArrivalsBeforeS5CompleteTheFrame : Prop :=
  ∀ (s : State) (t : Byte) (p front back : List Byte) (early later : List Event) (k : Nat),
    p.length ≤ 60 → frameOf t p = front ++ back → 2 ≤ front.length → busy s = false → s.rxq = front →
    (∀ e ∈ early, e = .blockMoves ∨ (arriving e).isSome = true) → early.filterMap arriving = back →
    early.count .blockMoves ≤ 4 →
    (early.count .blockMoves + k = 6 ∨ (early.count .blockMoves + k ≤ 6 ∧ later = [])) →
    s.env = .invoke ⟨0x80, []⟩ :: (early ++ (List.replicate k .blockMoves ++ later)) →
    ∃ u : State, steps (7 + back.length) s = .next u ∧ u.result = some (.frame t p) ∧ u.rxq = [] ∧
      u.ls = decodeFrame t p s.now s.ls ∧ u.txlog = s.txlog ∧ busy u = false ∧ u.env = later

/-- 20_memory.md R41: the same bytes arriving after S5 leave the POLL truncated, and stay in the queue.
-/
def Obligations.ArrivalsAfterS5ComeTooLate : Prop :=
  ∀ (s : State) (t : Byte) (p front back : List Byte), p.length ≤ 60 → frameOf t p = front ++ back →
    2 ≤ front.length → back ≠ [] → busy s = false → s.rxq = front →
    s.env = [.invoke ⟨0x80, []⟩, .blockMoves, .blockMoves, .blockMoves, .blockMoves, .blockMoves]
      ++ back.map .rxArrive →
    ∃ u : State, steps (6 + back.length) s = .next u ∧
      u.result = some (.noFrame .truncated) ∧ u.rxq = back ∧ u.ls = s.ls ∧ busy u = false

/-! ## The decoder -/

/-- 30_encoding.md R63, 42_decoder.md R110, 60_exceptions.md R155: a received frame of any type,
whatever its fields, is rejected for the first cause in step order, else DECODE runs on Link State. -/
def Obligations.ReceivedFramesAreCheckedInStepOrder : Prop :=
  ∀ (s : State) (t n : Byte) (p : List Byte) (crc : Byte),
    exec (rxInstr t n p crc) s = .next
      (if n.toNat < 2 ∨ 62 < n.toNat then
        { s with phase := .idle, len := none, d := none, stamp := none,
                 result := some (.noFrame .badLength) }
      else if p.length + 2 < n.toNat then
        { s with phase := .idle, len := none, d := none, stamp := none,
                 result := some (.noFrame .truncated) }
      else if crc8 (t :: p) ≠ crc then
        { s with phase := .idle, len := none, d := none, stamp := none,
                 result := some (.noFrame .badCrc) }
      else
        { s with ls := decodeFrame t p (s.stamp.getD s.now) s.ls,
                 phase := .idle, len := none, d := none, stamp := none, result := some (.frame t p) })

/-- 42_decoder.md R111, R115, 20_memory.md R34 (the bit order is the spec's decision D29): an RC frame
of 22 payload bytes replaces all 16 channels, channel `i` by `V[11 i + 10 : 11 i]` of `V`, the sum of
`p[k] * 2^(8 k)`; it stamps the time and writes nothing else of Link State. -/
def Obligations.RcFrameWritesTheSixteenChannels : Prop :=
  ∀ (s : State) (n : Byte) (p : List Byte) (crc : Byte),
    rxWellFormed n p = true → p.length = 22 → crc8 (0x16 :: p) = crc →
    ∃ chans : Vector (BitVec 11) 16,
      (∀ i : Fin 16, chans[i].toNat =
        (((List.range 22).map fun k => (p.getD k 0).toNat * 2 ^ (8 * k)).sum / 2 ^ (11 * i.val)) % 2 ^ 11) ∧
      exec (.rcChannelsPacked n p crc) s = .next
        { s with ls := { s.ls with channels := chans, lastPacketTime := s.stamp.getD s.now },
                 phase := .idle, len := none, d := none, stamp := none, result := some (.frame 0x16 p) }

/-- 42_decoder.md R111, 30_encoding.md R55: channel `i` in the byte-wise form, with the third byte only
where the shift is 6 or more; with `o = 11 i`, byte `o / 8` and shift `o % 8`. -/
def Obligations.ChannelsInTheByteWiseForm : Prop :=
  ∀ (p : List Byte) (i : Fin 16), p.length = 22 →
    (unpackChannels p)[i].toNat =
      (((p.getD (11 * i.val / 8) 0).toNat >>> (11 * i.val % 8)) |||
        ((p.getD (11 * i.val / 8 + 1) 0).toNat <<< (8 - 11 * i.val % 8)) |||
        (if 6 ≤ 11 * i.val % 8 then (p.getD (11 * i.val / 8 + 2) 0).toNat <<< (16 - 11 * i.val % 8) else 0))
      &&& 0x07FF

/-- 42_decoder.md R111: UNPACK_RC is a bijection between 22-byte payloads and 16-tuples of channels. -/
def Obligations.UnpackIsABijection : Prop :=
  ∀ v : Vector (BitVec 11) 16, ∃! p : List Byte, p.length = 22 ∧ unpackChannels p = v

/-- The spec's decision D7 (42_decoder.md R117, log 17): a type 0x16 frame of another payload length is
accepted and writes no channel. -/
def Obligations.RcFrameOfAnotherLengthWritesNoChannel : Prop :=
  ∀ (s : State) (n : Byte) (p : List Byte) (crc : Byte),
    rxWellFormed n p = true → p.length ≠ 22 → crc8 (0x16 :: p) = crc →
    exec (.rcChannelsPacked n p crc) s = .next
      { s with ls := { s.ls with lastPacketTime := s.stamp.getD s.now },
               phase := .idle, len := none, d := none, stamp := none, result := some (.frame 0x16 p) }

/-- 42_decoder.md R113, R115: a link-statistics frame writes `rssi_dbm = -payload[4]`, an unsigned byte
negated, and `link_quality = payload[5]`, and leaves the channels. The 9-bit register and the unsigned
reading are the spec's decision D9 (log 19); that the time written is the count sampled in the POLL is
the model's choice on the spec's decision D10 (log 8). -/
def Obligations.LinkStatisticsFrameWritesRssiAndQuality : Prop :=
  ∀ (s : State) (n : Byte) (p : List Byte) (crc rssi quality : Byte),
    rxWellFormed n p = true → p[4]? = some rssi → p[5]? = some quality → crc8 (0x14 :: p) = crc →
    ∃ r : BitVec 9, r.toInt = -(rssi.toNat : Int) ∧
      exec (.linkStatistics n p crc) s = .next
        { s with ls := { s.ls with rssiDbm := r, linkQuality := quality, lastPacketTime := s.stamp.getD s.now },
                 phase := .idle, len := none, d := none, stamp := none, result := some (.frame 0x14 p) }

/-- The spec's decision D8 (42_decoder.md R118, log 18): a type 0x14 frame with fewer than 6 payload
bytes writes neither field. -/
def Obligations.ShortLinkStatisticsWritesNeitherField : Prop :=
  ∀ (s : State) (n : Byte) (p : List Byte) (crc : Byte),
    rxWellFormed n p = true → p.length < 6 → crc8 (0x14 :: p) = crc →
    exec (.linkStatistics n p crc) s = .next
      { s with ls := { s.ls with lastPacketTime := s.stamp.getD s.now },
               phase := .idle, len := none, d := none, stamp := none, result := some (.frame 0x14 p) }

/-- 42_decoder.md R114, R115: a frame of any other type is accepted and only stamps the time. That the time
written is the count sampled in the POLL is the model's choice on the spec's decision D10 (log 8). -/
def Obligations.UnrecognisedFrameOnlyStampsTheTime : Prop :=
  ∀ (s : State) (t n : Byte) (p : List Byte) (crc : Byte),
    t ≠ 0x16 → t ≠ 0x14 → rxWellFormed n p = true → crc8 (t :: p) = crc →
    exec (.rxUnrecognised t n p crc) s = .next
      { s with ls := { s.ls with lastPacketTime := s.stamp.getD s.now },
               phase := .idle, len := none, d := none, stamp := none, result := some (.frame t p) }

/-- 10_state.md R10, R22, 42_decoder.md R110, R115: whatever the step, Link State changes only at S6 of
a POLL that ends with a frame whose CRC matched, and then it is what DECODE makes of that frame. -/
def Obligations.OnlyAnAcceptedFrameWritesLinkState : Prop :=
  ∀ s u : State, step s = .next u → u.ls ≠ s.ls →
    s.phase = .s6 ∧ ∃ (t : Byte) (p behind : List Byte), s.d = some (t :: p ++ crc8 (t :: p) :: behind) ∧
      u.result = some (.frame t p) ∧ u.phase = .idle ∧ u.ls = decodeFrame t p (s.stamp.getD s.now) s.ls

/-- 42_decoder.md R116: a move of a POLL that ends it with "no frame", and every move before, leaves
Link State as it was, timestamp included. -/
def Obligations.NoFrameMeansNoLinkStateWrite : Prop :=
  ∀ s u : State, s.phase ≠ .idle → step s = .next u →
    (u.phase ≠ .idle ∨ ∃ c : Cause, u.result = some (.noFrame c)) → u.ls = s.ls

/-- The spec's decision D12 (20_memory.md R42, log 9): a read that overlaps the block's move returns
each register old or new, changes nothing else, and every mix of old and new can be what it returns. -/
def Obligations.OverlappingReadSeesAnyMix : Prop :=
  ∀ (s u : State) (later : List Event), step { s with env := .blockMoves :: later } = .next u →
    (∀ pick : ReadPick, ∃ v : LinkState, EachOldOrNew s.ls u.ls v ∧
      step { s with env := .overlappingRead pick :: later } = .next { u with readerView := some v }) ∧
    (∀ v : LinkState, EachOldOrNew s.ls u.ls v → ∃ pick : ReadPick,
      step { s with env := .overlappingRead pick :: later } = .next { u with readerView := some v })

/-! ## CRC8 and the accessors -/

/-- 42_decoder.md R119 (exactness is the spec's decision D22): the exact percentage, 0 for an index
outside 0..15, the range, and the corner cases; nothing but the result changes. -/
def Obligations.ChannelPercentIsLinearAndUnclamped : Prop :=
  (∀ (s : State) (i : Fin 16), exec (.getChannelPercent (i.val : Int)) s = .next
    { s with result := some (.percent (((s.ls.channels[i].toNat : Rat) - 992) * 100 / 819)) }) ∧
  (∀ (s : State) (i : Int), (i < 0 ∨ 15 < i) →
    exec (.getChannelPercent i) s = .next { s with result := some (.percent 0) }) ∧
  (∀ raw : BitVec 11, -99200 / 819 ≤ percentOf raw ∧ percentOf raw ≤ 105500 / 819) ∧
  percentOf 992 = 0 ∧ percentOf 1811 = 100 ∧ percentOf 173 = -100 ∧ percentOf 172 = -82000 / 819

/-- 42_decoder.md R121 (the modular difference is the spec's decision D10): connected iff the time
elapsed since `last_packet_time`, modulo `2^TIME_W`, is strictly less than the timeout, 1000 when none
is given; nothing but the result changes. -/
def Obligations.ConnectedIffElapsedBelowTimeout : Prop :=
  ∀ (s : State) (timeout : Option Config.Time), ∃ b : Bool,
    exec (.isConnected timeout) s = .next { s with result := some (.connected b) } ∧
    (b = true ↔
      (s.now.toNat + (2 ^ Config.timeW - s.ls.lastPacketTime.toNat)) % 2 ^ Config.timeW <
        (match timeout with | some t => t.toNat | none => 1000)) ∧
    (timeout = some 0 → b = false) ∧
    (s.now = s.ls.lastPacketTime → timeout ≠ some 0 → b = true)

/-- 70_reset_and_hazards.md R177: before the first frame the result is unconstrained: for every time and
every timeout of at least 1, some `lpt0` makes the block connected and some does not. -/
def Obligations.LivenessBeforeTheFirstFrameIsOpen : Prop :=
  ∀ (now timeout : Config.Time), timeout ≠ 0 →
    (∃ lpt0 : Config.Time, isConnectedAt now lpt0 timeout = true) ∧
    (∃ lpt0 : Config.Time, isConnectedAt now lpt0 timeout = false)

/-- 40_crc8.md R84, 42_decoder.md R120: CRC8 and READ_STATE report and change nothing but the result. -/
def Obligations.CrcAndReadStateOnlyReport : Prop :=
  (∀ (s : State) (bytes : List Byte),
    exec (.crc8 bytes) s = .next { s with result := some (.crc (crc8 bytes)) }) ∧
  (∀ s : State, exec .readState s = .next { s with result := some (.linkState s.ls) })

/-! ## The encoder -/

/-- 30_encoding.md R62 (exactness and the altitude's order are the spec's decisions D13, D15, log 16):
the four scale functions, on exact rationals, each ending in `trunc`. -/
def Obligations.ScaleFunctionsTruncateTowardZero : Prop :=
  ∀ q : Rat, scale10 q = trunc (q * 10) ∧ scale1e7 q = trunc (q * 10000000) ∧
    scaleAtt q = trunc (q * 314159 / 1800) ∧ scaleAlt q = trunc (q + 1000)

/-- 00_scope.md R7, 30_encoding.md R61 (the spec's decision D14): `wrap_N(z)` is `z mod 2^N`, and for a
`z` that fits a signed field it is the two's-complement code of `z`. -/
def Obligations.WrapKeepsTheLowBits : Prop :=
  ∀ (n : Nat) (z : Int), ((wrap n z).toNat : Int) = z % 2 ^ n ∧
    (0 < n → -2 ^ (n - 1) ≤ z → z < 2 ^ (n - 1) → (wrap n z).toInt = z)

/-- 43_encoder.md R132 (on the spec's decisions D13, D14, D17, D19; two moves: log 11): ENC_BATTERY
packs, then BUILDs the 12-byte frame; nothing else changes. -/
def Obligations.EncBatterySendsTheFrame : Prop :=
  ∀ (s : State) (voltage current : Rat) (capacity : Int), s.phase = .idle → s.env = [] →
    let v := wrap 16 (trunc (voltage * 10))
    let a := wrap 16 (trunc (current * 10))
    let c := wrap 24 capacity
    let payload : List Byte :=
      [v.extractLsb' 8 8, v.extractLsb' 0 8, a.extractLsb' 8 8, a.extractLsb' 0 8,
        c.extractLsb' 16 8, c.extractLsb' 8 8, c.extractLsb' 0 8, 0x00]
    let frame := [0xC8, 0x0A, 0x08] ++ payload ++ [crc8 (0x08 :: payload)]
    exec (.encBattery voltage current capacity) s =
      .next { s with building := some (0x08, payload), result := none } ∧
    step { s with building := some (0x08, payload), result := none } =
      .next { s with building := none, txlog := s.txlog ++ frame, result := some (.sent frame) }

/-- 43_encoder.md R133 (on the spec's decisions D13, D14, D17, D19; two moves: log 11): ENC_GPS packs,
then BUILDs the 19-byte frame; nothing else changes. -/
def Obligations.EncGpsSendsTheFrame : Prop :=
  ∀ (s : State) (latitude longitude altitude : Rat) (satellites : Int), s.phase = .idle → s.env = [] →
    let la := wrap 32 (trunc (latitude * 10000000))
    let lo := wrap 32 (trunc (longitude * 10000000))
    let al := wrap 16 (trunc (altitude + 1000))
    let payload : List Byte :=
      [la.extractLsb' 24 8, la.extractLsb' 16 8, la.extractLsb' 8 8, la.extractLsb' 0 8,
        lo.extractLsb' 24 8, lo.extractLsb' 16 8, lo.extractLsb' 8 8, lo.extractLsb' 0 8,
        0x00, 0x00, 0x00, 0x00, al.extractLsb' 8 8, al.extractLsb' 0 8, wrap 8 satellites]
    let frame := [0xC8, 0x11, 0x02] ++ payload ++ [crc8 (0x02 :: payload)]
    exec (.encGps latitude longitude altitude satellites) s =
      .next { s with building := some (0x02, payload), result := none } ∧
    step { s with building := some (0x02, payload), result := none } =
      .next { s with building := none, txlog := s.txlog ++ frame, result := some (.sent frame) }

/-- 43_encoder.md R134 (on the spec's decisions D13, D14, D17, D19; two moves: log 11): ENC_ATTITUDE
packs, then BUILDs the 10-byte frame; nothing else changes. -/
def Obligations.EncAttitudeSendsTheFrame : Prop :=
  ∀ (s : State) (pitch roll yaw : Rat), s.phase = .idle → s.env = [] →
    let p := wrap 16 (trunc (pitch * 314159 / 1800))
    let r := wrap 16 (trunc (roll * 314159 / 1800))
    let y := wrap 16 (trunc (yaw * 314159 / 1800))
    let payload : List Byte :=
      [p.extractLsb' 8 8, p.extractLsb' 0 8, r.extractLsb' 8 8, r.extractLsb' 0 8,
        y.extractLsb' 8 8, y.extractLsb' 0 8]
    let frame := [0xC8, 0x08, 0x1E] ++ payload ++ [crc8 (0x1E :: payload)]
    exec (.encAttitude pitch roll yaw) s =
      .next { s with building := some (0x1E, payload), result := none } ∧
    step { s with building := some (0x1E, payload), result := none } =
      .next { s with building := none, txlog := s.txlog ++ frame, result := some (.sent frame) }

/-- 43_encoder.md R135 (the order of the tests is the spec's decision D18; two moves: log 11; the
refusal: log 20): ENC_FLIGHT_MODE raises EncodingError on any character above 0x7F, whatever the length;
refuses an ASCII name above 59; else packs the name and 0x00 and BUILDs the frame. -/
def Obligations.EncFlightModeSendsOrRaises : Prop :=
  ∀ (s : State) (name : List Nat), s.phase = .idle → s.building = none → s.env = [] →
    ((∃ c ∈ name, 0x7F < c) →
      exec (.encFlightMode name) s = .next { s with result := some .encodingError }) ∧
    ((∀ c ∈ name, c ≤ 0x7F) → 59 < name.length →
      exec (.encFlightMode name) s = .refused .flightModeTooLong) ∧
    ((∀ c ∈ name, c ≤ 0x7F) → name.length ≤ 59 →
      let payload := name.map (BitVec.ofNat 8) ++ [0x00]
      let frame := [0xC8, BitVec.ofNat 8 (name.length + 3), 0x21] ++ payload ++ [crc8 (0x21 :: payload)]
      exec (.encFlightMode name) s =
        .next { s with building := some (0x21, payload), result := none } ∧
      step { s with building := some (0x21, payload), result := none } =
        .next { s with txlog := s.txlog ++ frame, result := some (.sent frame) })

/-- 43_encoder.md R130, 20_memory.md R32 (both a result and a TxWrite: the spec's decision D19): a
well-formed built frame (BATTERY, GPS, ATTITUDE, FLIGHT_MODE) appends its wire bytes to the TX stream in
one piece and reports the same bytes; nothing else changes. -/
def Obligations.BuiltFrameIsWrittenAndReported : Prop :=
  ∀ (s : State) (i : Instr) (bytes : List Byte), i.WellFormed → encode i = .txFrame bytes →
    exec i s = .next
      { s with building := none, txlog := s.txlog ++ bytes, result := some (.sent bytes) }

/-- 60_exceptions.md R153: EncodingError is raised by ENC_FLIGHT_MODE only, on a character above 0x7F;
it changes no state but the result, has code 7, and does not affect the next operation. -/
def Obligations.EncodingErrorHasNoLastingEffect : Prop :=
  (∀ (i : Instr) (s u : State), exec i s = .next u → u.result = some .encodingError →
    ∃ name : List Nat, i = .encFlightMode name ∧ ∃ c ∈ name, 0x7F < c) ∧
  (∀ (name : List Nat) (s : State), busy s = false → (∃ c ∈ name, 0x7F < c) →
    exec (.encFlightMode name) s = .next { s with result := some .encodingError }) ∧
  resultCode .encodingError = some 7 ∧
  (∀ (i : Instr) (s : State), exec i { s with result := some .encodingError } = exec i s)

/-- 60_exceptions.md R150, R153 (the numbers are the spec's decision D4): the code of each outcome. -/
def Obligations.ResultCodesOfTheSpec : Prop :=
  (∀ (t : Byte) (p : List Byte), resultCode (.frame t p) = some 0) ∧
  [Cause.noData, .badSync, .noLength, .badLength, .truncated, .badCrc].map
    (fun c => resultCode (.noFrame c)) = [some 1, some 2, some 3, some 4, some 5, some 6] ∧
  resultCode .encodingError = some 7

/-- 43_encoder.md R136: the transmit side reads and writes no Link State and no RX queue, and what it
builds or sends depends on its operands alone. -/
def Obligations.EncoderIsStateless : Prop :=
  ∀ (i : Instr) (s u s' u' : State), isTransmit i = true → exec i s = .next u → exec i s' = .next u' →
    u.ls = s.ls ∧ u.rxq = s.rxq ∧ u.building = u'.building ∧ u.result = u'.result ∧
    ∃ bytes : List Byte, u.txlog = s.txlog ++ bytes ∧ u'.txlog = s'.txlog ++ bytes

/-- 43_encoder.md R137, 20_memory.md R32, R37 (D19): from every state that meets the invariant, the TX
stream grows only by one whole frame of 5 to 64 bytes, the one being built. -/
def Obligations.TxStreamGrowsByWholeFrames : Prop :=
  ∀ s u : State, Inv s → step s = .next u →
    u.txlog = s.txlog ∨
    ∃ (t : Byte) (p : List Byte), s.building = some (t, p) ∧ u.building = none ∧
      u.txlog = s.txlog ++ frameOf t p ∧ u.result = some (.sent (frameOf t p)) ∧
      5 ≤ (frameOf t p).length ∧ (frameOf t p).length ≤ 64

/-! ## The whole machine -/

/-- 10_state.md R23: what reset leaves, where the spec gives the value (IDLE is its decision D5). -/
def Obligations.ResetLeavesWhatTheSpecGives : Prop :=
  (∀ i : Fin 16, State.reset.ls.channels[i] = 992) ∧ State.reset.phase = .idle ∧
  State.reset.len = none ∧ State.reset.d = none ∧ State.reset.building = none ∧ State.reset.txlog = []

/-- 70_reset_and_hazards.md R171: after reset GET_CHANNEL_PERCENT is 0 for every index. -/
def Obligations.AfterResetEveryPercentIsZero : Prop :=
  ∀ i : Int, exec (.getChannelPercent i) State.reset =
    .next { State.reset with result := some (.percent 0) }

/-- The invariant holds at reset. -/
def Obligations.InvariantHoldsAtReset : Prop := Inv State.reset

/-- 10_state.md R15, R16, 20_memory.md R40: every step keeps the invariant: the transients of a POLL
hold values exactly where the algorithm has read them, the length byte kept past S4 is legal, the body
has that length, and a frame is being built only outside a POLL and only in a legal form. -/
def Obligations.EveryStepKeepsTheInvariant : Prop :=
  ∀ s u : State, Inv s → step s = .next u → Inv u

/-- 60_exceptions.md R154: from every state that meets the invariant a step is total. It never faults;
it is refused only for an invocation that is no operation of the block or has operands outside its
types, or for an ASCII flight-mode name above 59. -/
def Obligations.StepsAreTotal : Prop :=
  ∀ s : State, Inv s →
    (∃ u : State, step s = .next u) ∨
    (∃ (c : Call) (later : List Event), s.env = .invoke c :: later ∧ busy s = false ∧
      ((∃ e : DecodeError, decodeCall c = .error e ∧ step s = .refused (.undecodable e)) ∨
       (∃ name : List Nat, decodeCall c = .ok (.encFlightMode name) ∧ (∀ x ∈ name, x ≤ 0x7F) ∧
         59 < name.length ∧ step s = .refused .flightModeTooLong)))

/-- 20_memory.md R31, 60_exceptions.md R161, 42_decoder.md R115 (as events of `env`: logs 6, 8): an
arriving byte is appended at the tail, the timer advances modulo `2^TIME_W`, and the block samples the
timer at any instant of a POLL, for DECODE; nothing else changes, whatever the block is doing. -/
def Obligations.OutsideAgentsActBetweenMoves : Prop :=
  (∀ (s : State) (b : Byte) (later : List Event), s.env = .rxArrive b :: later →
    step s = .next { s with rxq := s.rxq ++ [b], env := later }) ∧
  (∀ (s : State) (ms : Nat) (later : List Event), s.env = .timeAdvances ms :: later →
    ∃ now' : Config.Time, now'.toNat = (s.now.toNat + ms) % 2 ^ Config.timeW ∧
      step s = .next { s with now := now', env := later }) ∧
  (∀ (s : State) (later : List Event), s.env = .samplesNow :: later →
    (s.phase ≠ .idle → step s = .next { s with stamp := some s.now, env := later }) ∧
    (s.phase = .idle → step s = .next { s with env := later }))

/-- 20_memory.md R40, R41 (waiting is the model's: log 10; the events: log 6): while an operation is in
progress an invocation waits; and in every state the block's move is the one it makes with nothing to
come, whatever comes after it, be it let move by an event or not waiting for the invocation. -/
def Obligations.OneOperationAtATime : Prop :=
  ∀ (s u : State) (later : List Event), step { s with env := [] } = .next u →
    (∀ c : Call, busy s = true → s.env = .invoke c :: later → step s = .next { u with env := s.env }) ∧
    step { s with env := .blockMoves :: later } = .next { u with env := later }

/-- 10_state.md R16 (`phase` is the spec's decision D5): `phase` stays, goes to the next step, or leaves
to IDLE; it leaves before S6 only with a reject; it enters S1 only by a POLL. -/
def Obligations.PhaseNeverGoesBackOrSkips : Prop :=
  State.reset.phase = .idle ∧
  ∀ s u : State, step s = .next u →
    (u.phase = s.phase ∨ u.phase = .idle ∨ u.phase = phaseAfter s.phase) ∧
    (s.phase ≠ .idle → s.phase ≠ .s6 → u.phase = .idle →
      ∃ c : Cause, u.result = some (.noFrame c)) ∧
    (s.phase = .idle → u.phase ≠ .idle → ∃ (c : Call) (later : List Event),
      s.env = .invoke c :: later ∧ decodeCall c = .ok .poll)

/-- 10_state.md R17: the block takes bytes only from the head of the RX queue, and only during a POLL.
-/
def Obligations.QueueIsOnlyReadAtItsHead : Prop :=
  ∀ s u : State, step s = .next u →
    (∃ k : Nat, u.rxq = s.rxq.drop k ∧ (s.phase = .idle → u.rxq = s.rxq)) ∨
    (∃ (b : Byte) (later : List Event), s.env = .rxArrive b :: later ∧ u.rxq = s.rxq ++ [b])

/-- 10_state.md R17, R20, R22, 20_memory.md R30: no instruction, given its next state, changes the RX
queue, the timer, or what the agents around the block do or have seen; only the built frames change the
TX stream, only the received frames Link State; and the result of the operation before is never read. -/
def Obligations.InstructionsChangeOnlyTheirOwn : Prop :=
  ∀ (i : Instr) (s u : State), exec i s = .next u →
    u.rxq = s.rxq ∧ u.now = s.now ∧ u.env = s.env ∧ u.readerView = s.readerView ∧
    ((∀ bytes : List Byte, encode i ≠ .txFrame bytes) → u.txlog = s.txlog) ∧
    ((∀ bytes : List Byte, encode i ≠ .rxFrame bytes) → u.ls = s.ls) ∧
    (∀ r : Option Result, exec i { s with result := r } = exec i s)
end

