-- ==== Sys2Proof/Laws/Bits.lean ====
section
/-! SUPPORT. Bits, bytes and operands: what each helper of Machine/Bits.lean, Crc.lean, Operands.lean and
WellFormed.lean is, as a fact about numbers and lists. -/

namespace Sys2Proof.Machine

/-! ## Length bytes, names, payloads -/

theorem lengthLegal_iff (n : Byte) : lengthLegal n = true ↔ 2 ≤ n.toNat ∧ n.toNat ≤ 62 := by
  unfold lengthLegal
  rw [Bool.and_eq_true, decide_eq_true_iff, decide_eq_true_iff]
  rfl

theorem lengthLegal_eq_false_iff (n : Byte) : lengthLegal n = false ↔ n.toNat < 2 ∨ 62 < n.toNat := by
  rw [← Bool.not_eq_true, lengthLegal_iff]
  omega

theorem payloadExtent_of_legal {n : Byte} (h : lengthLegal n = true) : payloadExtent n = n.toNat - 2 := by
  simp [payloadExtent, h]

theorem rxWellFormed_iff (n : Byte) (p : List Byte) :
    rxWellFormed n p = true ↔ (2 ≤ n.toNat ∧ n.toNat ≤ 62) ∧ p.length + 2 = n.toNat := by
  simp [rxWellFormed, lengthLegal_iff]

theorem payloadExtent_of_rxWellFormed {n : Byte} {p : List Byte} (h : rxWellFormed n p = true) :
    payloadExtent n = p.length := by
  have h' := (rxWellFormed_iff n p).1 h
  rw [payloadExtent_of_legal ((lengthLegal_iff n).2 h'.1)]
  omega

theorem toNat_lengthByte {p : List Byte} (h : p.length ≤ 60) :
    (BitVec.ofNat 8 (p.length + 2)).toNat = p.length + 2 := by
  simp
  omega

theorem rxWellFormed_lengthByte {p : List Byte} (h : p.length ≤ 60) :
    rxWellFormed (BitVec.ofNat 8 (p.length + 2)) p = true := by
  rw [rxWellFormed_iff, toNat_lengthByte h]
  omega

theorem flightModeWellFormed_iff (p : List Byte) : flightModeWellFormed p = true ↔
    p.length ≤ 60 ∧ p.getLast? = some 0x00 ∧ ∀ b ∈ p, b.toNat ≤ 0x7F := by
  unfold flightModeWellFormed
  rw [Bool.and_eq_true, Bool.and_eq_true, decide_eq_true_iff, beq_iff_eq, List.all_eq_true, and_assoc]
  simp only [decide_eq_true_iff]
  rfl

theorem allAscii_iff (name : List Nat) : allAscii name = true ↔ ∀ c ∈ name, c ≤ 0x7F := by
  rw [allAscii, List.all_eq_true]
  simp only [decide_eq_true_iff]

theorem allAscii_eq_false_iff (name : List Nat) : allAscii name = false ↔ ∃ c ∈ name, 0x7F < c := by
  rw [← Bool.not_eq_true, allAscii_iff]
  simp only [not_forall, Nat.not_le, exists_prop]

theorem flightModePayload_wellFormed {name : List Nat} (h : allAscii name = true) (hl : name.length ≤ 59) :
    flightModeWellFormed (flightModePayload name) = true := by
  refine (flightModeWellFormed_iff _).2 ⟨by simp [flightModePayload]; omega, by simp [flightModePayload], ?_⟩
  intro b hb
  simp only [flightModePayload, List.mem_append, List.mem_map, List.mem_singleton] at hb
  rcases hb with ⟨c, hc, rfl⟩ | rfl
  · have := (allAscii_iff _).1 h c hc
    simp
    omega
  · simp

theorem batteryPayload_length (v a : BitVec 16) (c : BitVec 24) : (batteryPayload v a c).length = 8 := by
  simp [batteryPayload, beBytes]

theorem gpsPayload_length (la lo : BitVec 32) (al : BitVec 16) (sa : Byte) :
    (gpsPayload la lo al sa).length = 15 := by
  simp [gpsPayload, beBytes]

theorem attitudePayload_length (p r y : BitVec 16) : (attitudePayload p r y).length = 6 := by
  simp [attitudePayload, beBytes]

theorem flightModePayload_length (name : List Nat) : (flightModePayload name).length = name.length + 1 := by
  simp [flightModePayload]

theorem frameOf_length (t : Byte) (p : List Byte) : (frameOf t p).length = p.length + 4 := by
  simp [frameOf]

/-! ## Big-endian bytes -/

theorem beBytes_two (u : Nat) :
    beBytes 2 u = [BitVec.ofNat 8 (slice u 15 8), BitVec.ofNat 8 (slice u 7 0)] := by
  simp [beBytes, List.range_succ]

theorem beBytes_three (u : Nat) : beBytes 3 u =
    [BitVec.ofNat 8 (slice u 23 16), BitVec.ofNat 8 (slice u 15 8), BitVec.ofNat 8 (slice u 7 0)] := by
  simp [beBytes, List.range_succ]

theorem beBytes_four (u : Nat) : beBytes 4 u =
    [BitVec.ofNat 8 (slice u 31 24), BitVec.ofNat 8 (slice u 23 16), BitVec.ofNat 8 (slice u 15 8),
      BitVec.ofNat 8 (slice u 7 0)] := by
  simp [beBytes, List.range_succ]

theorem ofNat_slice_toNat {w : Nat} (x : BitVec w) (hi lo : Nat) (h : hi - lo + 1 = 8) :
    BitVec.ofNat 8 (slice x.toNat hi lo) = x.extractLsb' lo 8 := by
  apply BitVec.eq_of_toNat_eq
  simp [slice, h, BitVec.extractLsb', Nat.shiftRight_eq_div_pow]

theorem beValue_beBytes_two (x : BitVec 16) : BitVec.ofNat 16 (beValue (beBytes 2 x.toNat)) = x := by
  apply BitVec.eq_of_toNat_eq
  simp [beBytes, List.range_succ, beValue, slice]
  have := x.isLt
  omega

theorem beValue_beBytes_three (x : BitVec 24) : BitVec.ofNat 24 (beValue (beBytes 3 x.toNat)) = x := by
  apply BitVec.eq_of_toNat_eq
  simp [beBytes, List.range_succ, beValue, slice]
  have := x.isLt
  omega

theorem beValue_beBytes_four (x : BitVec 32) : BitVec.ofNat 32 (beValue (beBytes 4 x.toNat)) = x := by
  apply BitVec.eq_of_toNat_eq
  simp [beBytes, List.range_succ, beValue, slice]
  have := x.isLt
  omega

theorem beBytes_beValue_two (a b : Byte) :
    beBytes 2 (BitVec.ofNat 16 (beValue [a, b])).toNat = [a, b] := by
  have := a.isLt
  have := b.isLt
  rw [beBytes_two]
  simp only [List.cons.injEq, and_true]
  constructor <;> (apply BitVec.eq_of_toNat_eq; simp [beValue, slice]; omega)

theorem beBytes_beValue_three (a b c : Byte) :
    beBytes 3 (BitVec.ofNat 24 (beValue [a, b, c])).toNat = [a, b, c] := by
  have := a.isLt
  have := b.isLt
  have := c.isLt
  rw [beBytes_three]
  simp only [List.cons.injEq, and_true]
  refine ⟨?_, ?_, ?_⟩ <;> (apply BitVec.eq_of_toNat_eq; simp [beValue, slice]; omega)

theorem beBytes_beValue_four (a b c d : Byte) :
    beBytes 4 (BitVec.ofNat 32 (beValue [a, b, c, d])).toNat = [a, b, c, d] := by
  have := a.isLt
  have := b.isLt
  have := c.isLt
  have := d.isLt
  rw [beBytes_four]
  simp only [List.cons.injEq, and_true]
  refine ⟨?_, ?_, ?_, ?_⟩ <;> (apply BitVec.eq_of_toNat_eq; simp [beValue, slice]; omega)

/-! ## Little-endian value, channels -/

theorem leValue_lt (p : List Byte) : leValue p < 256 ^ p.length := by
  induction p with
  | nil => simp [leValue]
  | cons b p ih =>
    simp only [leValue, List.length_cons, pow_succ]
    have := b.isLt
    omega

theorem leValue_head (p : List Byte) : leValue p = (p.getD 0 0).toNat + 256 * leValue (p.drop 1) := by
  cases p <;> simp [leValue]

theorem leValue_div (p : List Byte) (b : Nat) : leValue p / 256 ^ b = leValue (p.drop b) := by
  induction b generalizing p with
  | zero => simp
  | succ b ih =>
    cases p with
    | nil => simp [leValue]
    | cons x p =>
      rw [pow_succ', ← Nat.div_div_eq_div_mul]
      simp only [leValue, List.drop_succ_cons]
      rw [show (x.toNat + 256 * leValue p) / 256 = leValue p by have := x.isLt; omega, ih]

theorem channelAt_toNat (p : List Byte) (i : Fin 16) :
    (channelAt p i.val).toNat = leValue p / 2 ^ (11 * i.val) % 2 ^ 11 := by
  simp [channelAt, slice]

theorem unpackChannels_getElem (p : List Byte) (i : Fin 16) :
    (unpackChannels p)[i] = channelAt p i.val := by
  fin_cases i <;> rfl

/-! ## Truncated fractions, the CRC by bytes -/

theorem trunc_div (n : Int) (d : Nat) (h : d ≠ 0) : trunc ((n : Rat) / (d : Rat)) = truncDiv n d := by
  have key : ∀ n : Int, ((n : Rat) / (d : Rat)).floor = n / d :=
    fun n => Rat.floor_intCast_div_natCast n d
  have hd : (0 : Rat) < d := by exact_mod_cast Nat.pos_of_ne_zero h
  unfold trunc truncDiv
  split
  · rename_i h0
    have : 0 ≤ n := by
      rw [le_div_iff₀ hd] at h0
      simp at h0
      exact_mod_cast h0
    rw [key, Int.tdiv_eq_ediv_of_nonneg this]
  · rename_i h0
    have hn : n < 0 := by
      by_contra hh
      exact h0 (div_nonneg (by exact_mod_cast (not_lt.mp hh)) hd.le)
    have e : -((n : Rat) / (d : Rat)) = ((-n : Int) : Rat) / (d : Rat) := by push_cast; ring
    rw [e, key]
    obtain ⟨m, rfl⟩ : ∃ m, n = -m := ⟨-n, by ring⟩
    rw [Int.neg_tdiv, Int.tdiv_eq_ediv_of_nonneg (by omega)]
    simp

theorem crc8_concat (s : List Byte) (b : Byte) : crc8 (s ++ [b]) = crcEntry (crc8 s ^^^ b) := by
  simp [crc8]

theorem crc8_append (s r : List Byte) :
    crc8 (s ++ r) = r.foldl (fun c b => crcEntry (c ^^^ b)) (crc8 s) := by
  simp [crc8]

end Sys2Proof.Machine
end

