-- ==== Sys2Proof/Laws/Decode.lean ====
section
/-! SUPPORT. The decoder by cases: what it reads from each built payload, and which instructions each of
its three directions can give. -/

namespace Sys2Proof

open Machine

theorem opOfCode_selectCode (op : HostOp) : opOfCode (selectCode op) = some op := by
  cases op <;> decide

theorem opOfCode_eq_none {code : Byte} (h : ∀ op : HostOp, selectCode op ≠ code) :
    opOfCode code = none := by
  simp only [opOfCode, List.find?_eq_none]
  intro op _
  simpa using h op

theorem asInteger_intCast (z : Int) : asInteger (z : Rat) = some z := by
  simp [asInteger]

/-! ## Built frames -/

theorem txInstr_battery (v a : BitVec 16) (c : BitVec 24) :
    txInstr Config.typeBattery (batteryPayload v a c) = .ok (.battery v a c) := by
  have h1 := beValue_beBytes_two v
  have h2 := beValue_beBytes_two a
  have h3 := beValue_beBytes_three c
  simp only [beBytes_two, beBytes_three] at h1 h2 h3
  simp [txInstr, batteryPayload, beBytes_two, beBytes_three, h1, h2, h3]

theorem txInstr_gps (la lo : BitVec 32) (al : BitVec 16) (sa : Byte) :
    txInstr Config.typeGps (gpsPayload la lo al sa) = .ok (.gps la lo al sa) := by
  have h1 := beValue_beBytes_four la
  have h2 := beValue_beBytes_four lo
  have h3 := beValue_beBytes_two al
  simp only [beBytes_two, beBytes_four] at h1 h2 h3
  simp [txInstr, gpsPayload, beBytes_two, beBytes_four, h1, h2, h3, Config.typeGps, Config.typeBattery]

theorem txInstr_attitude (p r y : BitVec 16) :
    txInstr Config.typeAttitude (attitudePayload p r y) = .ok (.attitude p r y) := by
  have h1 := beValue_beBytes_two p
  have h2 := beValue_beBytes_two r
  have h3 := beValue_beBytes_two y
  simp only [beBytes_two] at h1 h2 h3
  simp [txInstr, attitudePayload, beBytes_two, h1, h2, h3, Config.typeGps, Config.typeBattery,
    Config.typeAttitude]

theorem txInstr_flightMode (p : List Byte) : txInstr Config.typeFlightMode p = .ok (.flightMode p) := by
  simp [txInstr, Config.typeGps, Config.typeBattery, Config.typeAttitude, Config.typeFlightMode]

/-- A frame the block can build has a payload of 1 to 60 bytes. -/
theorem payload_length_of_txInstr {t : Byte} {p : List Byte} {i : Instr} (h : txInstr t p = .ok i)
    (hw : i.WellFormed) : 1 ≤ p.length ∧ p.length ≤ 60 := by
  unfold txInstr at h
  repeat' split at h
  all_goals cases h
  · simp
  · simp
  · simp
  · have := (flightModeWellFormed_iff p).1 hw
    refine ⟨?_, this.1⟩
    rcases p with _ | ⟨a, p⟩
    · simp at this
    · simp

/-! ## Which instructions each direction gives -/

theorem encode_of_decodeCall {c : Call} {i : Instr} (h : decodeCall c = .ok i) :
    ∃ c' : Call, encode i = .call c' := by
  unfold decodeCall at h
  split at h
  · cases h
  · unfold hostInstr at h
    split at h <;>
      first
      | (cases h; exact ⟨_, rfl⟩)
      | (split at h <;> first | (cases h; exact ⟨_, rfl⟩) | cases h)
      | cases h

theorem encode_of_decodeTx {b : List Byte} {i : Instr} (h : decode (.txFrame b) = .ok i) :
    ∃ b' : List Byte, encode i = .txFrame b' := by
  simp only [decode] at h
  cases hd : decodeTx b with
  | error e => rw [hd] at h; cases h
  | ok r =>
    rw [hd] at h
    cases h
    unfold decodeTx at hd
    split at hd
    · split at hd
      · split at hd
        · cases hd
        · split at hd
          · rename_i i hi
            cases hd
            unfold txInstr at hi
            repeat' split at hi
            all_goals first | (cases hi; exact ⟨_, rfl⟩) | cases hi
          · cases hd
      · cases hd
    · cases hd

theorem rxInstr_of_decodeRx {n : Byte} {d : List Byte} {i : Instr}
    (h : decode (.rxFrame (Config.syncByte :: n :: d)) = .ok i) :
    ∃ (t : Byte) (p : List Byte) (c : Byte) (behind : List Byte),
      i = rxInstr t n p c ∧ d = t :: p ++ c :: behind := by
  simp only [decode] at h
  cases hd : decodeRx (Config.syncByte :: n :: d) with
  | error e => rw [hd] at h; cases h
  | ok r =>
    rw [hd] at h
    cases h
    cases d with
    | nil => simp [decodeRx] at hd
    | cons t rest =>
      simp only [decodeRx, if_true] at hd
      split at hd
      · rename_i c behind hdr
        cases hd
        refine ⟨t, _, c, behind, rfl, ?_⟩
        rw [List.cons_append, ← hdr, List.take_append_drop]
      · cases hd

end Sys2Proof
end

