-- ==== Sys2Proof/Laws/PerInstr.lean ====
section
/-! SUPPORT. Statements made once per instruction. Family `TableRow`: the bits of the encoding of a
well-formed instruction that its row of spec/opcode_table.json fixes are as that row says. -/

namespace Sys2Proof.Laws.TableRow

open Machine

/-- The bytes of an encoded instruction that the opcode table numbers: the select code, or the sync,
length and type bytes. -/
def head : Encoded → List Byte
  | .call c => [c.code]
  | .rxFrame bytes => bytes.take 3
  | .txFrame bytes => bytes.take 3

/-- Size in bytes, mask and match of an instruction's row of spec/opcode_table.json. -/
def row : Instr → Nat × Nat × Nat
  | .rcChannelsPacked _ _ _ => (3, 0xFF00FF, 0xC80016)
  | .linkStatistics _ _ _ => (3, 0xFF00FF, 0xC80014)
  | .rxUnrecognised _ _ _ _ => (3, 0xFF0000, 0xC80000)
  | .battery _ _ _ => (3, 0xFFFFFF, 0xC80A08)
  | .gps _ _ _ _ => (3, 0xFFFFFF, 0xC81102)
  | .attitude _ _ _ => (3, 0xFFFFFF, 0xC8081E)
  | .flightMode _ => (3, 0xFF00FF, 0xC80021)
  | .poll => (1, 0xFF, 0x80)
  | .crc8 _ => (1, 0xFF, 0x81)
  | .getChannelPercent _ => (1, 0xFF, 0x82)
  | .isConnected _ => (1, 0xFF, 0x83)
  | .readState => (1, 0xFF, 0x84)
  | .encGps _ _ _ _ => (1, 0xFF, 0x02)
  | .encBattery _ _ _ => (1, 0xFF, 0x08)
  | .encAttitude _ _ _ => (1, 0xFF, 0x1E)
  | .encFlightMode _ => (1, 0xFF, 0x21)

/-- The head, masked, is the match, byte by byte. -/
def Fits (bytes : List Byte) (r : Nat × Nat × Nat) : Prop :=
  bytes.length = r.1 ∧ List.zipWith (fun x y => x &&& y) bytes (beBytes r.1 r.2.1) = beBytes r.1 r.2.2

/-- The statement of the family. -/
def Statement (i : Instr) : Prop := i.WellFormed → Fits (head (encode i)) (row i)

theorem fits_one (b : Byte) (m : Nat) (hb : [b &&& 0xFF] = beBytes 1 m) : Fits [b] (1, 0xFF, m) :=
  ⟨rfl, by rw [← hb, show beBytes 1 0xFF = [0xFF] from by decide]; rfl⟩

theorem fits_three {a b c x y z : Byte} {mask m : Nat} (hm : beBytes 3 mask = [x, y, z])
    (h : beBytes 3 m = [a &&& x, b &&& y, c &&& z]) : Fits [a, b, c] (3, mask, m) :=
  ⟨rfl, by simp [hm, h]⟩

theorem rcChannelsPacked (n : Byte) (p : List Byte) (crc : Byte) : Statement (.rcChannelsPacked n p crc) :=
  fun _ => fits_three (a := 0xC8) (b := n) (c := 0x16) (x := 0xFF) (y := 0x00) (z := 0xFF) rfl
    (by rw [show n &&& 0x00 = 0x00 from BitVec.and_zero]; decide)

theorem linkStatistics (n : Byte) (p : List Byte) (crc : Byte) : Statement (.linkStatistics n p crc) :=
  fun _ => fits_three (a := 0xC8) (b := n) (c := 0x14) (x := 0xFF) (y := 0x00) (z := 0xFF) rfl
    (by rw [show n &&& 0x00 = 0x00 from BitVec.and_zero]; decide)

theorem rxUnrecognised (t n : Byte) (p : List Byte) (crc : Byte) : Statement (.rxUnrecognised t n p crc) :=
  fun _ => fits_three (a := 0xC8) (b := n) (c := t) (x := 0xFF) (y := 0x00) (z := 0x00) rfl
    (by rw [show n &&& 0x00 = 0x00 from BitVec.and_zero, show t &&& 0x00 = 0x00 from BitVec.and_zero]; decide)

theorem battery (v a : BitVec 16) (c : BitVec 24) : Statement (.battery v a c) :=
  fun _ => fits_three (a := 0xC8) (b := 0x0A) (c := 0x08) (x := 0xFF) (y := 0xFF) (z := 0xFF) rfl rfl

theorem gps (la lo : BitVec 32) (al : BitVec 16) (sa : Byte) : Statement (.gps la lo al sa) :=
  fun _ => fits_three (a := 0xC8) (b := 0x11) (c := 0x02) (x := 0xFF) (y := 0xFF) (z := 0xFF) rfl rfl

theorem attitude (p r y : BitVec 16) : Statement (.attitude p r y) :=
  fun _ => fits_three (a := 0xC8) (b := 0x08) (c := 0x1E) (x := 0xFF) (y := 0xFF) (z := 0xFF) rfl rfl

theorem flightMode (p : List Byte) : Statement (.flightMode p) :=
  fun _ => fits_three (a := 0xC8) (b := BitVec.ofNat 8 (p.length + 2)) (c := 0x21)
    (x := 0xFF) (y := 0x00) (z := 0xFF) rfl
    (by rw [show BitVec.ofNat 8 (p.length + 2) &&& 0x00 = 0x00 from BitVec.and_zero]; decide)

theorem poll : Statement .poll := fun _ => fits_one 0x80 0x80 (by decide)

theorem crc8 (s : List Byte) : Statement (.crc8 s) := fun _ => fits_one 0x81 0x81 (by decide)

theorem getChannelPercent (i : Int) : Statement (.getChannelPercent i) := fun _ => fits_one 0x82 0x82 (by decide)

theorem isConnected (t : Option Config.Time) : Statement (.isConnected t) := by
  cases t <;> exact fun _ => fits_one 0x83 0x83 (by decide)

theorem readState : Statement .readState := fun _ => fits_one 0x84 0x84 (by decide)

theorem encGps (la lo al : Rat) (sa : Int) : Statement (.encGps la lo al sa) :=
  fun _ => fits_one 0x02 0x02 (by decide)

theorem encBattery (v a : Rat) (c : Int) : Statement (.encBattery v a c) := fun _ => fits_one 0x08 0x08 (by decide)

theorem encAttitude (p r y : Rat) : Statement (.encAttitude p r y) := fun _ => fits_one 0x1E 0x1E (by decide)

theorem encFlightMode (name : List Nat) : Statement (.encFlightMode name) :=
  fun _ => fits_one 0x21 0x21 (by decide)

end Sys2Proof.Laws.TableRow
end

