-- ==== Sys2Proof/Laws/State.lean ====
section
/-! SUPPORT. One lemma per field per update, so that no proof unfolds a record update. -/

namespace Sys2Proof.Machine

variable (s : State)

/-! `rxDropped` -/

@[simp] theorem rxDropped_ls (n : Nat) : (rxDropped n s).ls = s.ls := rfl
@[simp] theorem rxDropped_phase (n : Nat) : (rxDropped n s).phase = s.phase := rfl
@[simp] theorem rxDropped_len (n : Nat) : (rxDropped n s).len = s.len := rfl
@[simp] theorem rxDropped_d (n : Nat) : (rxDropped n s).d = s.d := rfl
@[simp] theorem rxDropped_stamp (n : Nat) : (rxDropped n s).stamp = s.stamp := rfl
@[simp] theorem rxDropped_building (n : Nat) : (rxDropped n s).building = s.building := rfl
@[simp] theorem rxDropped_rxq (n : Nat) : (rxDropped n s).rxq = s.rxq.drop n := rfl
@[simp] theorem rxDropped_txlog (n : Nat) : (rxDropped n s).txlog = s.txlog := rfl
@[simp] theorem rxDropped_now (n : Nat) : (rxDropped n s).now = s.now := rfl
@[simp] theorem rxDropped_result (n : Nat) : (rxDropped n s).result = s.result := rfl
@[simp] theorem rxDropped_env (n : Nat) : (rxDropped n s).env = s.env := rfl
@[simp] theorem rxDropped_readerView (n : Nat) : (rxDropped n s).readerView = s.readerView := rfl

/-! `rxFlush` -/

@[simp] theorem rxFlush_ls : (rxFlush s).ls = s.ls := rfl
@[simp] theorem rxFlush_phase : (rxFlush s).phase = s.phase := rfl
@[simp] theorem rxFlush_len : (rxFlush s).len = s.len := rfl
@[simp] theorem rxFlush_d : (rxFlush s).d = s.d := rfl
@[simp] theorem rxFlush_stamp : (rxFlush s).stamp = s.stamp := rfl
@[simp] theorem rxFlush_building : (rxFlush s).building = s.building := rfl
@[simp] theorem rxFlush_rxq : (rxFlush s).rxq = [] := rfl
@[simp] theorem rxFlush_txlog : (rxFlush s).txlog = s.txlog := rfl
@[simp] theorem rxFlush_now : (rxFlush s).now = s.now := rfl
@[simp] theorem rxFlush_result : (rxFlush s).result = s.result := rfl
@[simp] theorem rxFlush_env : (rxFlush s).env = s.env := rfl
@[simp] theorem rxFlush_readerView : (rxFlush s).readerView = s.readerView := rfl

/-! `txWrite` -/

@[simp] theorem txWrite_ls (b : List Byte) : (txWrite b s).ls = s.ls := rfl
@[simp] theorem txWrite_phase (b : List Byte) : (txWrite b s).phase = s.phase := rfl
@[simp] theorem txWrite_len (b : List Byte) : (txWrite b s).len = s.len := rfl
@[simp] theorem txWrite_d (b : List Byte) : (txWrite b s).d = s.d := rfl
@[simp] theorem txWrite_stamp (b : List Byte) : (txWrite b s).stamp = s.stamp := rfl
@[simp] theorem txWrite_building (b : List Byte) : (txWrite b s).building = s.building := rfl
@[simp] theorem txWrite_rxq (b : List Byte) : (txWrite b s).rxq = s.rxq := rfl
@[simp] theorem txWrite_txlog (b : List Byte) : (txWrite b s).txlog = s.txlog ++ b := rfl
@[simp] theorem txWrite_now (b : List Byte) : (txWrite b s).now = s.now := rfl
@[simp] theorem txWrite_result (b : List Byte) : (txWrite b s).result = s.result := rfl
@[simp] theorem txWrite_env (b : List Byte) : (txWrite b s).env = s.env := rfl
@[simp] theorem txWrite_readerView (b : List Byte) : (txWrite b s).readerView = s.readerView := rfl

/-! `rxArrive` -/

@[simp] theorem rxArrive_ls (b : Byte) : (rxArrive b s).ls = s.ls := rfl
@[simp] theorem rxArrive_phase (b : Byte) : (rxArrive b s).phase = s.phase := rfl
@[simp] theorem rxArrive_len (b : Byte) : (rxArrive b s).len = s.len := rfl
@[simp] theorem rxArrive_d (b : Byte) : (rxArrive b s).d = s.d := rfl
@[simp] theorem rxArrive_stamp (b : Byte) : (rxArrive b s).stamp = s.stamp := rfl
@[simp] theorem rxArrive_building (b : Byte) : (rxArrive b s).building = s.building := rfl
@[simp] theorem rxArrive_rxq (b : Byte) : (rxArrive b s).rxq = s.rxq ++ [b] := rfl
@[simp] theorem rxArrive_txlog (b : Byte) : (rxArrive b s).txlog = s.txlog := rfl
@[simp] theorem rxArrive_now (b : Byte) : (rxArrive b s).now = s.now := rfl
@[simp] theorem rxArrive_result (b : Byte) : (rxArrive b s).result = s.result := rfl
@[simp] theorem rxArrive_env (b : Byte) : (rxArrive b s).env = s.env := rfl
@[simp] theorem rxArrive_readerView (b : Byte) : (rxArrive b s).readerView = s.readerView := rfl

/-! `timeAdvances` -/

@[simp] theorem timeAdvances_ls (ms : Nat) : (timeAdvances ms s).ls = s.ls := rfl
@[simp] theorem timeAdvances_phase (ms : Nat) : (timeAdvances ms s).phase = s.phase := rfl
@[simp] theorem timeAdvances_len (ms : Nat) : (timeAdvances ms s).len = s.len := rfl
@[simp] theorem timeAdvances_d (ms : Nat) : (timeAdvances ms s).d = s.d := rfl
@[simp] theorem timeAdvances_stamp (ms : Nat) : (timeAdvances ms s).stamp = s.stamp := rfl
@[simp] theorem timeAdvances_building (ms : Nat) : (timeAdvances ms s).building = s.building := rfl
@[simp] theorem timeAdvances_rxq (ms : Nat) : (timeAdvances ms s).rxq = s.rxq := rfl
@[simp] theorem timeAdvances_txlog (ms : Nat) : (timeAdvances ms s).txlog = s.txlog := rfl
@[simp] theorem timeAdvances_now (ms : Nat) :
    (timeAdvances ms s).now = s.now + BitVec.ofNat Config.timeW ms := rfl
@[simp] theorem timeAdvances_result (ms : Nat) : (timeAdvances ms s).result = s.result := rfl
@[simp] theorem timeAdvances_env (ms : Nat) : (timeAdvances ms s).env = s.env := rfl
@[simp] theorem timeAdvances_readerView (ms : Nat) :
    (timeAdvances ms s).readerView = s.readerView := rfl

/-! `report` -/

@[simp] theorem report_ls (r : Result) : (report r s).ls = s.ls := rfl
@[simp] theorem report_phase (r : Result) : (report r s).phase = s.phase := rfl
@[simp] theorem report_len (r : Result) : (report r s).len = s.len := rfl
@[simp] theorem report_d (r : Result) : (report r s).d = s.d := rfl
@[simp] theorem report_stamp (r : Result) : (report r s).stamp = s.stamp := rfl
@[simp] theorem report_building (r : Result) : (report r s).building = s.building := rfl
@[simp] theorem report_rxq (r : Result) : (report r s).rxq = s.rxq := rfl
@[simp] theorem report_txlog (r : Result) : (report r s).txlog = s.txlog := rfl
@[simp] theorem report_now (r : Result) : (report r s).now = s.now := rfl
@[simp] theorem report_result (r : Result) : (report r s).result = some r := rfl
@[simp] theorem report_env (r : Result) : (report r s).env = s.env := rfl
@[simp] theorem report_readerView (r : Result) : (report r s).readerView = s.readerView := rfl

/-! `endPoll` -/

@[simp] theorem endPoll_ls (r : Result) : (endPoll r s).ls = s.ls := rfl
@[simp] theorem endPoll_phase (r : Result) : (endPoll r s).phase = .idle := rfl
@[simp] theorem endPoll_len (r : Result) : (endPoll r s).len = none := rfl
@[simp] theorem endPoll_d (r : Result) : (endPoll r s).d = none := rfl
@[simp] theorem endPoll_stamp (r : Result) : (endPoll r s).stamp = none := rfl
@[simp] theorem endPoll_building (r : Result) : (endPoll r s).building = s.building := rfl
@[simp] theorem endPoll_rxq (r : Result) : (endPoll r s).rxq = s.rxq := rfl
@[simp] theorem endPoll_txlog (r : Result) : (endPoll r s).txlog = s.txlog := rfl
@[simp] theorem endPoll_now (r : Result) : (endPoll r s).now = s.now := rfl
@[simp] theorem endPoll_result (r : Result) : (endPoll r s).result = some r := rfl
@[simp] theorem endPoll_env (r : Result) : (endPoll r s).env = s.env := rfl
@[simp] theorem endPoll_readerView (r : Result) : (endPoll r s).readerView = s.readerView := rfl

/-! `reject` -/

@[simp] theorem reject_ls (c : Cause) : (reject c s).ls = s.ls := rfl
@[simp] theorem reject_phase (c : Cause) : (reject c s).phase = .idle := rfl
@[simp] theorem reject_len (c : Cause) : (reject c s).len = none := rfl
@[simp] theorem reject_d (c : Cause) : (reject c s).d = none := rfl
@[simp] theorem reject_stamp (c : Cause) : (reject c s).stamp = none := rfl
@[simp] theorem reject_building (c : Cause) : (reject c s).building = s.building := rfl
@[simp] theorem reject_rxq (c : Cause) : (reject c s).rxq = s.rxq := rfl
@[simp] theorem reject_txlog (c : Cause) : (reject c s).txlog = s.txlog := rfl
@[simp] theorem reject_now (c : Cause) : (reject c s).now = s.now := rfl
@[simp] theorem reject_result (c : Cause) : (reject c s).result = some (.noFrame c) := rfl
@[simp] theorem reject_env (c : Cause) : (reject c s).env = s.env := rfl
@[simp] theorem reject_readerView (c : Cause) : (reject c s).readerView = s.readerView := rfl

/-! `raiseEncodingError` -/

@[simp] theorem raiseEncodingError_ls : (raiseEncodingError s).ls = s.ls := rfl
@[simp] theorem raiseEncodingError_phase : (raiseEncodingError s).phase = s.phase := rfl
@[simp] theorem raiseEncodingError_len : (raiseEncodingError s).len = s.len := rfl
@[simp] theorem raiseEncodingError_d : (raiseEncodingError s).d = s.d := rfl
@[simp] theorem raiseEncodingError_stamp : (raiseEncodingError s).stamp = s.stamp := rfl
@[simp] theorem raiseEncodingError_building : (raiseEncodingError s).building = none := rfl
@[simp] theorem raiseEncodingError_rxq : (raiseEncodingError s).rxq = s.rxq := rfl
@[simp] theorem raiseEncodingError_txlog : (raiseEncodingError s).txlog = s.txlog := rfl
@[simp] theorem raiseEncodingError_now : (raiseEncodingError s).now = s.now := rfl
@[simp] theorem raiseEncodingError_result :
    (raiseEncodingError s).result = some .encodingError := rfl
@[simp] theorem raiseEncodingError_env : (raiseEncodingError s).env = s.env := rfl
@[simp] theorem raiseEncodingError_readerView :
    (raiseEncodingError s).readerView = s.readerView := rfl

/-! `startPoll` -/

@[simp] theorem startPoll_ls : (startPoll s).ls = s.ls := rfl
@[simp] theorem startPoll_phase : (startPoll s).phase = .s1 := rfl
@[simp] theorem startPoll_len : (startPoll s).len = none := rfl
@[simp] theorem startPoll_d : (startPoll s).d = none := rfl
@[simp] theorem startPoll_stamp : (startPoll s).stamp = none := rfl
@[simp] theorem startPoll_building : (startPoll s).building = s.building := rfl
@[simp] theorem startPoll_rxq : (startPoll s).rxq = s.rxq := rfl
@[simp] theorem startPoll_txlog : (startPoll s).txlog = s.txlog := rfl
@[simp] theorem startPoll_now : (startPoll s).now = s.now := rfl
@[simp] theorem startPoll_result : (startPoll s).result = none := rfl
@[simp] theorem startPoll_env : (startPoll s).env = s.env := rfl
@[simp] theorem startPoll_readerView : (startPoll s).readerView = s.readerView := rfl

/-! `accept` -/

@[simp] theorem accept_ls (t : Byte) (p : List Byte) (arm : LinkState → LinkState) :
    (accept t p arm s).ls = { arm s.ls with lastPacketTime := stampTime s } := rfl
@[simp] theorem accept_phase (t : Byte) (p : List Byte) (arm : LinkState → LinkState) :
    (accept t p arm s).phase = .idle := rfl
@[simp] theorem accept_len (t : Byte) (p : List Byte) (arm : LinkState → LinkState) :
    (accept t p arm s).len = none := rfl
@[simp] theorem accept_d (t : Byte) (p : List Byte) (arm : LinkState → LinkState) :
    (accept t p arm s).d = none := rfl
@[simp] theorem accept_stamp (t : Byte) (p : List Byte) (arm : LinkState → LinkState) :
    (accept t p arm s).stamp = none := rfl
@[simp] theorem accept_building (t : Byte) (p : List Byte) (arm : LinkState → LinkState) :
    (accept t p arm s).building = s.building := rfl
@[simp] theorem accept_rxq (t : Byte) (p : List Byte) (arm : LinkState → LinkState) :
    (accept t p arm s).rxq = s.rxq := rfl
@[simp] theorem accept_txlog (t : Byte) (p : List Byte) (arm : LinkState → LinkState) :
    (accept t p arm s).txlog = s.txlog := rfl
@[simp] theorem accept_now (t : Byte) (p : List Byte) (arm : LinkState → LinkState) :
    (accept t p arm s).now = s.now := rfl
@[simp] theorem accept_result (t : Byte) (p : List Byte) (arm : LinkState → LinkState) :
    (accept t p arm s).result = some (.frame t p) := rfl
@[simp] theorem accept_env (t : Byte) (p : List Byte) (arm : LinkState → LinkState) :
    (accept t p arm s).env = s.env := rfl
@[simp] theorem accept_readerView (t : Byte) (p : List Byte) (arm : LinkState → LinkState) :
    (accept t p arm s).readerView = s.readerView := rfl

/-! `samplesNow` -/

theorem samplesNow_idle (h : s.phase = .idle) : samplesNow s = s := if_pos h
theorem samplesNow_poll (h : s.phase ≠ .idle) : samplesNow s = { s with stamp := some s.now } := if_neg h
@[simp] theorem samplesNow_ls : (samplesNow s).ls = s.ls := by unfold samplesNow; split <;> rfl
@[simp] theorem samplesNow_phase : (samplesNow s).phase = s.phase := by unfold samplesNow; split <;> rfl
@[simp] theorem samplesNow_len : (samplesNow s).len = s.len := by unfold samplesNow; split <;> rfl
@[simp] theorem samplesNow_d : (samplesNow s).d = s.d := by unfold samplesNow; split <;> rfl
@[simp] theorem samplesNow_building : (samplesNow s).building = s.building := by unfold samplesNow; split <;> rfl
@[simp] theorem samplesNow_rxq : (samplesNow s).rxq = s.rxq := by unfold samplesNow; split <;> rfl
@[simp] theorem samplesNow_txlog : (samplesNow s).txlog = s.txlog := by unfold samplesNow; split <;> rfl
@[simp] theorem samplesNow_now : (samplesNow s).now = s.now := by unfold samplesNow; split <;> rfl
@[simp] theorem samplesNow_result : (samplesNow s).result = s.result := by unfold samplesNow; split <;> rfl
@[simp] theorem samplesNow_env : (samplesNow s).env = s.env := by unfold samplesNow; split <;> rfl
@[simp] theorem samplesNow_readerView : (samplesNow s).readerView = s.readerView := by unfold samplesNow; split <;> rfl

/-! `beginFrame` -/

@[simp] theorem beginFrame_ls (t : Byte) (p : List Byte) : (beginFrame t p s).ls = s.ls := rfl
@[simp] theorem beginFrame_phase (t : Byte) (p : List Byte) :
    (beginFrame t p s).phase = s.phase := rfl
@[simp] theorem beginFrame_len (t : Byte) (p : List Byte) : (beginFrame t p s).len = s.len := rfl
@[simp] theorem beginFrame_d (t : Byte) (p : List Byte) : (beginFrame t p s).d = s.d := rfl
@[simp] theorem beginFrame_stamp (t : Byte) (p : List Byte) : (beginFrame t p s).stamp = s.stamp := rfl
@[simp] theorem beginFrame_building (t : Byte) (p : List Byte) :
    (beginFrame t p s).building = some (t, p) := rfl
@[simp] theorem beginFrame_rxq (t : Byte) (p : List Byte) : (beginFrame t p s).rxq = s.rxq := rfl
@[simp] theorem beginFrame_txlog (t : Byte) (p : List Byte) :
    (beginFrame t p s).txlog = s.txlog := rfl
@[simp] theorem beginFrame_now (t : Byte) (p : List Byte) : (beginFrame t p s).now = s.now := rfl
@[simp] theorem beginFrame_result (t : Byte) (p : List Byte) :
    (beginFrame t p s).result = none := rfl
@[simp] theorem beginFrame_env (t : Byte) (p : List Byte) : (beginFrame t p s).env = s.env := rfl
@[simp] theorem beginFrame_readerView (t : Byte) (p : List Byte) :
    (beginFrame t p s).readerView = s.readerView := rfl

/-! `build` -/

@[simp] theorem build_ls (t : Byte) (p : List Byte) : (build t p s).ls = s.ls := rfl
@[simp] theorem build_phase (t : Byte) (p : List Byte) : (build t p s).phase = s.phase := rfl
@[simp] theorem build_len (t : Byte) (p : List Byte) : (build t p s).len = s.len := rfl
@[simp] theorem build_d (t : Byte) (p : List Byte) : (build t p s).d = s.d := rfl
@[simp] theorem build_stamp (t : Byte) (p : List Byte) : (build t p s).stamp = s.stamp := rfl
@[simp] theorem build_building (t : Byte) (p : List Byte) : (build t p s).building = none := rfl
@[simp] theorem build_rxq (t : Byte) (p : List Byte) : (build t p s).rxq = s.rxq := rfl
@[simp] theorem build_txlog (t : Byte) (p : List Byte) :
    (build t p s).txlog = s.txlog ++ frameOf t p := rfl
@[simp] theorem build_now (t : Byte) (p : List Byte) : (build t p s).now = s.now := rfl
@[simp] theorem build_result (t : Byte) (p : List Byte) :
    (build t p s).result = some (.sent (frameOf t p)) := rfl
@[simp] theorem build_env (t : Byte) (p : List Byte) : (build t p s).env = s.env := rfl
@[simp] theorem build_readerView (t : Byte) (p : List Byte) :
    (build t p s).readerView = s.readerView := rfl

end Sys2Proof.Machine
end

