-- ==== Sys2Proof/Laws/Step.lean ====
section
/-! SUPPORT. What each move of the machine is, said once: `step` by the head of `env`, the block's own
move by its phase, `exec` by instruction, and `receive` by what the frame is. -/

namespace Sys2Proof.Machine

variable (s : State)

/-! ## `step`, by the event at the head of `env` -/

theorem step_env_nil (h : s.env = []) : step s = runMove (blockMove s) := by
  simp [step, observe, nextMove, h]

theorem step_env_blockMoves {later : List Event} (h : s.env = .blockMoves :: later) :
    step s = runMove (blockMove { s with env := later }) := by
  simp [step, observe, nextMove, h]

theorem step_env_overlappingRead {pick : ReadPick} {later : List Event}
    (h : s.env = .overlappingRead pick :: later) :
    step s = overlap pick s.ls (runMove (blockMove { s with env := later })) := by
  simp [step, observe, nextMove, h]

theorem step_env_rxArrive {b : Byte} {later : List Event} (h : s.env = .rxArrive b :: later) :
    step s = .next (rxArrive b { s with env := later }) := by
  simp [step, observe, nextMove, runMove, h]

theorem step_env_timeAdvances {ms : Nat} {later : List Event} (h : s.env = .timeAdvances ms :: later) :
    step s = .next (timeAdvances ms { s with env := later }) := by
  simp [step, observe, nextMove, runMove, h]

theorem step_env_samplesNow {later : List Event} (h : s.env = .samplesNow :: later) :
    step s = .next (samplesNow { s with env := later }) := by
  simp [step, observe, nextMove, runMove, h]

theorem step_env_invoke {c : Call} {later : List Event} (h : s.env = .invoke c :: later)
    (hb : busy s = false) : step s = runMove (.run (.call c) { s with env := later }) := by
  simp [step, observe, nextMove, h, hb]

theorem step_env_invoke_busy {c : Call} {later : List Event} (h : s.env = .invoke c :: later)
    (hb : busy s = true) : step s = runMove (blockMove s) := by
  simp [step, observe, nextMove, h, hb]

/-! ## Decode and run -/

theorem runMove_run_ok {e : Encoded} {i : Instr} (h : decode e = .ok i) :
    runMove (.run e s) = exec i s := by
  simp [runMove, h]

theorem runMove_run_error {e : Encoded} {err : DecodeError} (h : decode e = .error err) :
    runMove (.run e s) = .refused (.undecodable err) := by
  simp [runMove, h]

@[simp] theorem runMove_done (o : Host.Outcome State Fault Refusal) : runMove (.done o) = o := rfl

/-! ## The block's own move, by its phase -/

theorem blockMove_s1 (h : s.phase = .s1) : blockMove s = .done (.next (moveS1 s)) := by
  simp [blockMove, h]

theorem blockMove_s2 (h : s.phase = .s2) : blockMove s = .done (.next (moveS2 s)) := by
  simp [blockMove, h]

theorem blockMove_s3 (h : s.phase = .s3) : blockMove s = .done (.next (moveS3 s)) := by
  simp [blockMove, h]

theorem blockMove_s4 (h : s.phase = .s4) : blockMove s = .done (moveS4 s) := by
  simp [blockMove, h]

theorem blockMove_s5 (h : s.phase = .s5) : blockMove s = .done (moveS5 s) := by
  simp [blockMove, h]

theorem blockMove_s6 {n : Byte} {d : List Byte} (h : s.phase = .s6) (hn : s.len = some n)
    (hd : s.d = some d) : blockMove s = .run (.rxFrame (Config.syncByte :: n :: d)) s := by
  simp [blockMove, h, hn, hd]

theorem blockMove_building {t : Byte} {p : List Byte} (h : s.phase = .idle)
    (hb : s.building = some (t, p)) : blockMove s = .run (.txFrame (frameOf t p)) s := by
  simp [blockMove, h, hb]

theorem blockMove_idle (h : s.phase = .idle) (hb : s.building = none) :
    blockMove s = .done (.next s) := by
  simp [blockMove, h, hb]

theorem busy_eq_false_iff : busy s = false ↔ s.phase = .idle ∧ s.building = none := by
  simp [busy]

/-! ## `exec`, by instruction -/

theorem exec_rcChannelsPacked (n : Byte) (p : List Byte) (crc : Byte) :
    exec (.rcChannelsPacked n p crc) s = .next (receive Config.typeRcChannels n p crc (rcArm p) s) := rfl

theorem exec_linkStatistics (n : Byte) (p : List Byte) (crc : Byte) :
    exec (.linkStatistics n p crc) s =
      .next (receive Config.typeLinkStatistics n p crc (linkStatsArm p) s) := rfl

theorem exec_rxUnrecognised (t n : Byte) (p : List Byte) (crc : Byte) :
    exec (.rxUnrecognised t n p crc) s = .next (receive t n p crc otherArm s) := rfl

theorem exec_battery (v a : BitVec 16) (c : BitVec 24) :
    exec (.battery v a c) s = .next (build Config.typeBattery (batteryPayload v a c) s) := rfl

theorem exec_gps (la lo : BitVec 32) (al : BitVec 16) (sa : Byte) :
    exec (.gps la lo al sa) s = .next (build Config.typeGps (gpsPayload la lo al sa) s) := rfl

theorem exec_attitude (p r y : BitVec 16) :
    exec (.attitude p r y) s = .next (build Config.typeAttitude (attitudePayload p r y) s) := rfl

theorem exec_flightMode {p : List Byte} (h : p.length ≤ 60) :
    exec (.flightMode p) s = .next (build Config.typeFlightMode p s) := by
  simp [exec, execFlightMode, Config.modeMax, Nat.not_lt.mpr h]

theorem exec_flightMode_long {p : List Byte} (h : 60 < p.length) :
    exec (.flightMode p) s = .refused .flightModeTooLong := if_pos h

theorem exec_poll : exec .poll s = .next (startPoll s) := rfl

theorem exec_crc8 (b : List Byte) : exec (.crc8 b) s = .next (report (.crc (crc8 b)) s) := rfl

theorem exec_getChannelPercent (i : Int) :
    exec (.getChannelPercent i) s = .next (report (.percent (channelPercent s.ls i)) s) := rfl

theorem exec_isConnected (t : Option Config.Time) :
    exec (.isConnected t) s =
      .next (report (.connected (isConnectedAt s.now s.ls.lastPacketTime (timeoutOf t))) s) := rfl

theorem exec_readState : exec .readState s = .next (report (.linkState s.ls) s) := rfl

theorem exec_encBattery (v a : Rat) (c : Int) :
    exec (.encBattery v a c) s = .next (beginFrame Config.typeBattery
      (batteryPayload (wrap 16 (scale10 v)) (wrap 16 (scale10 a)) (wrap 24 c)) s) := rfl

theorem exec_encGps (la lo al : Rat) (sa : Int) :
    exec (.encGps la lo al sa) s = .next (beginFrame Config.typeGps
      (gpsPayload (wrap 32 (scale1e7 la)) (wrap 32 (scale1e7 lo)) (wrap 16 (scaleAlt al)) (wrap 8 sa))
      s) := rfl

theorem exec_encAttitude (p r y : Rat) :
    exec (.encAttitude p r y) s = .next (beginFrame Config.typeAttitude
      (attitudePayload (wrap 16 (scaleAtt p)) (wrap 16 (scaleAtt r)) (wrap 16 (scaleAtt y))) s) := rfl

theorem exec_encFlightMode_raises {name : List Nat} (h : allAscii name = false) :
    exec (.encFlightMode name) s = .next (raiseEncodingError s) := by
  show execEncFlightMode name s = _
  unfold execEncFlightMode
  exact if_pos h

theorem exec_encFlightMode_long {name : List Nat} (h : allAscii name = true) (hl : 59 < name.length) :
    exec (.encFlightMode name) s = .refused .flightModeTooLong := by
  show execEncFlightMode name s = _
  unfold execEncFlightMode
  rw [if_neg (by simp [h])]
  exact if_pos hl

theorem exec_encFlightMode_begins {name : List Nat} (h : allAscii name = true)
    (hl : name.length ≤ 59) : exec (.encFlightMode name) s =
      .next (beginFrame Config.typeFlightMode (flightModePayload name) s) := by
  show execEncFlightMode name s = _
  unfold execEncFlightMode
  rw [if_neg (by simp [h])]
  exact if_neg (Nat.not_lt.mpr hl)

/-- The built frame that decodes from a type and payload writes exactly that frame. -/
theorem exec_of_txInstr {t : Byte} {p : List Byte} {i : Instr} (h : txInstr t p = .ok i)
    (hw : i.WellFormed) : exec i s = .next (build t p s) := by
  unfold txInstr at h
  repeat' split at h
  all_goals cases h
  · subst_vars
    rw [exec_battery, batteryPayload, beBytes_beValue_two, beBytes_beValue_two, beBytes_beValue_three]
    rfl
  · rename_i hz
    simp only [List.cons.injEq, and_true] at hz
    obtain ⟨rfl, rfl, rfl, rfl⟩ := hz
    subst_vars
    rw [exec_gps, gpsPayload, beBytes_beValue_four, beBytes_beValue_four, beBytes_beValue_two]
    rfl
  · subst_vars
    rw [exec_attitude, attitudePayload, beBytes_beValue_two, beBytes_beValue_two, beBytes_beValue_two]
    rfl
  · subst_vars
    exact exec_flightMode s ((flightModeWellFormed_iff p).1 hw).1

/-- A received frame's instruction is `receive` with the arm DECODE takes for its type. -/
theorem exec_rxInstr (t n : Byte) (p : List Byte) (c : Byte) :
    ∃ arm : LinkState → LinkState, exec (rxInstr t n p c) s = .next (receive t n p c arm s) ∧
      ∀ (ls : LinkState) (now : Config.Time),
        { arm ls with lastPacketTime := now } = decodeFrame t p now ls := by
  by_cases h1 : t = Config.typeRcChannels
  · subst h1
    exact ⟨_, rfl, fun _ _ => rfl⟩
  · by_cases h2 : t = Config.typeLinkStatistics
    · subst h2
      exact ⟨_, rfl, fun _ _ => rfl⟩
    · exact ⟨otherArm, by simp only [rxInstr, h1, h2, if_false]; rfl,
        fun _ _ => by simp [decodeFrame, h1, h2]⟩

/-- All an instruction can do when it gives a next state. -/
theorem exec_cases {i : Instr} {u : State} (h : exec i s = .next u) :
    (∃ t n p c arm, u = receive t n p c arm s ∧ ∃ b, encode i = .rxFrame b) ∨
    (∃ t p, u = build t p s ∧ (∃ b, encode i = .txFrame b) ∧ ∀ s', exec i s' = .next (build t p s')) ∨
    (i = .poll ∧ u = startPoll s) ∨
    (∃ r, u = report r s ∧ (∀ c, r ≠ .noFrame c) ∧ r ≠ .encodingError ∧ ∃ c, encode i = .call c) ∨
    (∃ t p j, u = beginFrame t p s ∧ txInstr t p = .ok j ∧ j.WellFormed ∧ (∃ c, encode i = .call c) ∧
      ∀ s', exec i s' = .next (beginFrame t p s')) ∨
    (∃ name, i = .encFlightMode name ∧ allAscii name = false ∧ u = raiseEncodingError s) := by
  cases i with
  | rcChannelsPacked n p c => cases h; exact .inl ⟨_, n, p, c, _, rfl, _, rfl⟩
  | linkStatistics n p c => cases h; exact .inl ⟨_, n, p, c, _, rfl, _, rfl⟩
  | rxUnrecognised t n p c => cases h; exact .inl ⟨_, n, p, c, _, rfl, _, rfl⟩
  | battery => cases h; exact .inr (.inl ⟨_, _, rfl, ⟨_, rfl⟩, fun _ => rfl⟩)
  | gps => cases h; exact .inr (.inl ⟨_, _, rfl, ⟨_, rfl⟩, fun _ => rfl⟩)
  | attitude => cases h; exact .inr (.inl ⟨_, _, rfl, ⟨_, rfl⟩, fun _ => rfl⟩)
  | flightMode p =>
    by_cases hp : p.length ≤ 60
    · rw [exec_flightMode s hp] at h
      cases h
      exact .inr (.inl ⟨_, _, rfl, ⟨_, rfl⟩, fun s' => exec_flightMode s' hp⟩)
    · rw [exec_flightMode_long s (Nat.not_le.mp hp)] at h
      cases h
  | poll => cases h; exact .inr (.inr (.inl ⟨rfl, rfl⟩))
  | crc8 => cases h; exact .inr (.inr (.inr (.inl ⟨_, rfl, by simp, by simp, _, rfl⟩)))
  | getChannelPercent => cases h; exact .inr (.inr (.inr (.inl ⟨_, rfl, by simp, by simp, _, rfl⟩)))
  | isConnected t =>
    cases h
    exact .inr (.inr (.inr (.inl ⟨_, rfl, by simp, by simp, by cases t <;> exact ⟨_, rfl⟩⟩)))
  | readState => cases h; exact .inr (.inr (.inr (.inl ⟨_, rfl, by simp, by simp, _, rfl⟩)))
  | encGps =>
    cases h
    exact .inr (.inr (.inr (.inr (.inl ⟨_, _, _, rfl, txInstr_gps .., rfl, ⟨_, rfl⟩, fun _ => rfl⟩))))
  | encBattery =>
    cases h
    exact .inr (.inr (.inr (.inr (.inl
      ⟨_, _, _, rfl, txInstr_battery .., rfl, ⟨_, rfl⟩, fun _ => rfl⟩))))
  | encAttitude =>
    cases h
    exact .inr (.inr (.inr (.inr (.inl
      ⟨_, _, _, rfl, txInstr_attitude .., rfl, ⟨_, rfl⟩, fun _ => rfl⟩))))
  | encFlightMode name =>
    cases ha : allAscii name with
    | false =>
      rw [exec_encFlightMode_raises s ha] at h
      cases h
      exact .inr (.inr (.inr (.inr (.inr ⟨name, rfl, ha, rfl⟩))))
    | true =>
      by_cases hl : name.length ≤ 59
      · rw [exec_encFlightMode_begins s ha hl] at h
        cases h
        exact .inr (.inr (.inr (.inr (.inl ⟨_, _, _, rfl, txInstr_flightMode _,
          flightModePayload_wellFormed ha hl, ⟨_, rfl⟩, fun s' => exec_encFlightMode_begins s' ha hl⟩))))
      · rw [exec_encFlightMode_long s ha (by omega)] at h
        cases h

/-! ## `receive`, by what the frame is -/

theorem receive_badLength {t n : Byte} {p : List Byte} {crc : Byte} {arm : LinkState → LinkState}
    (h : lengthLegal n = false) : receive t n p crc arm s = reject .badLength s := by
  simp [receive, h]

theorem receive_badCrc {t n : Byte} {p : List Byte} {crc : Byte} {arm : LinkState → LinkState}
    (h : rxWellFormed n p = true) (hc : crc8 (t :: p) ≠ crc) :
    receive t n p crc arm s = reject .badCrc s := by
  simp only [rxWellFormed, Bool.and_eq_true, beq_iff_eq] at h
  simp [receive, h.1, h.2, hc]

theorem receive_accept {t n : Byte} {p : List Byte} {crc : Byte} {arm : LinkState → LinkState}
    (h : rxWellFormed n p = true) (hc : crc8 (t :: p) = crc) :
    receive t n p crc arm s = accept t p arm s := by
  simp only [rxWellFormed, Bool.and_eq_true, beq_iff_eq] at h
  simp [receive, h.1, h.2, hc]

/-- All a received frame can do: a reject, or acceptance of a frame whose CRC matches. -/
theorem receive_cases (t n : Byte) (p : List Byte) (crc : Byte) (arm : LinkState → LinkState) :
    (∃ c, receive t n p crc arm s = reject c s) ∨
    (crc8 (t :: p) = crc ∧ receive t n p crc arm s = accept t p arm s) := by
  unfold receive
  split
  · exact .inl ⟨_, rfl⟩
  · split
    · exact .inl ⟨_, rfl⟩
    · split
      · exact .inl ⟨_, rfl⟩
      · rename_i h
        exact .inr ⟨by simpa using h, rfl⟩

/-! ## The steps of a POLL -/

variable {s}

theorem moveS1_short (h : s.rxq.length < 2) : moveS1 s = reject .noData s := if_pos h

theorem moveS1_filled (h : ¬ s.rxq.length < 2) : moveS1 s = { s with phase := .s2 } := if_neg h

theorem moveS2_sync (h : s.rxq.take 1 = [Config.syncByte]) :
    moveS2 s = { rxDropped 1 s with phase := .s3 } := if_pos h

theorem moveS2_other (h : s.rxq.take 1 ≠ [Config.syncByte]) :
    moveS2 s = reject .badSync (rxFlush (rxDropped 1 s)) := if_neg h

theorem moveS3_nil (h : s.rxq = []) : moveS3 s = reject .noLength (rxDropped 1 s) := by
  simp [moveS3, rxTaken, h]

theorem moveS3_cons {n : Byte} {rest : List Byte} (h : s.rxq = n :: rest) :
    moveS3 s = { rxDropped 1 s with phase := .s4, len := some n } := by
  simp [moveS3, rxTaken, h]

theorem moveS4_legal {n : Byte} (hn : s.len = some n) (h : lengthLegal n = true) :
    moveS4 s = .next { s with phase := .s5 } := by
  simp [moveS4, hn, h]

theorem moveS4_illegal {n : Byte} (hn : s.len = some n) (h : lengthLegal n = false) :
    moveS4 s = .next (reject .badLength s) := by
  simp [moveS4, hn, h]

theorem moveS5_whole {n : Byte} (hn : s.len = some n) (h : n.toNat ≤ s.rxq.length) :
    moveS5 s = .next { rxDropped n.toNat s with phase := .s6, d := some (rxTaken n.toNat s) } := by
  simp only [moveS5, hn, rxTaken, List.length_take]
  exact if_neg (by omega)

theorem moveS5_short {n : Byte} (hn : s.len = some n) (h : s.rxq.length < n.toNat) :
    moveS5 s = .next (reject .truncated (rxDropped n.toNat s)) := by
  simp only [moveS5, hn, rxTaken, List.length_take]
  exact if_pos (by omega)

theorem moveS1_cases : moveS1 s = reject .noData s ∨ moveS1 s = { s with phase := .s2 } := by
  unfold moveS1
  split <;> simp

theorem moveS2_cases : moveS2 s = reject .badSync (rxFlush (rxDropped 1 s)) ∨
    moveS2 s = { rxDropped 1 s with phase := .s3 } := by
  unfold moveS2
  split <;> simp

theorem moveS3_cases : moveS3 s = reject .noLength (rxDropped 1 s) ∨
    ∃ n, moveS3 s = { rxDropped 1 s with phase := .s4, len := some n } := by
  unfold moveS3
  split <;> simp

theorem moveS4_cases {u : State} (h : moveS4 s = .next u) : ∃ n, s.len = some n ∧
    ((lengthLegal n = true ∧ u = { s with phase := .s5 }) ∨ u = reject .badLength s) := by
  unfold moveS4 at h
  split at h
  · cases h
  · rename_i n hn
    refine ⟨n, hn, ?_⟩
    split at h <;> cases h <;> simp_all

theorem moveS5_cases {u : State} (h : moveS5 s = .next u) : ∃ n, s.len = some n ∧
    ((n.toNat ≤ s.rxq.length ∧
        u = { rxDropped n.toNat s with phase := .s6, d := some (rxTaken n.toNat s) }) ∨
      u = reject .truncated (rxDropped n.toNat s)) := by
  cases hn : s.len with
  | none => simp [moveS5, hn] at h
  | some n =>
    refine ⟨n, rfl, ?_⟩
    by_cases hl : n.toNat ≤ s.rxq.length
    · rw [moveS5_whole hn hl] at h
      cases h
      exact .inl ⟨hl, rfl⟩
    · rw [moveS5_short hn (Nat.not_le.mp hl)] at h
      cases h
      exact .inr rfl

/-! ## All a step can do -/

/-- All the block's own move can do when it gives a next state. -/
theorem blockMove_cases {u : State} (h : runMove (blockMove s) = .next u) :
    (s.phase = .idle ∧ s.building = none ∧ u = s) ∨
    (s.phase = .s1 ∧ u = moveS1 s) ∨ (s.phase = .s2 ∧ u = moveS2 s) ∨ (s.phase = .s3 ∧ u = moveS3 s) ∨
    (s.phase = .s4 ∧ moveS4 s = .next u) ∨ (s.phase = .s5 ∧ moveS5 s = .next u) ∨
    (s.phase = .s6 ∧ ∃ t n p c behind, s.d = some (t :: p ++ c :: behind) ∧
      exec (rxInstr t n p c) s = .next u) ∨
    (s.phase = .idle ∧ ∃ t p i, s.building = some (t, p) ∧ decode (.txFrame (frameOf t p)) = .ok i ∧
      exec i s = .next u) := by
  cases hp : s.phase with
  | idle =>
    cases hb : s.building with
    | none =>
      rw [blockMove_idle s hp hb] at h
      cases h
      exact .inl ⟨rfl, rfl, rfl⟩
    | some tp =>
      obtain ⟨t, p⟩ := tp
      rw [blockMove_building s hp hb] at h
      cases hd : decode (.txFrame (frameOf t p)) with
      | error e => rw [runMove_run_error _ hd] at h; cases h
      | ok i =>
        rw [runMove_run_ok _ hd] at h
        exact .inr (.inr (.inr (.inr (.inr (.inr (.inr ⟨rfl, t, p, i, rfl, hd, h⟩))))))
  | s1 => rw [blockMove_s1 s hp] at h; cases h; simp
  | s2 => rw [blockMove_s2 s hp] at h; cases h; simp
  | s3 => rw [blockMove_s3 s hp] at h; cases h; simp
  | s4 => rw [blockMove_s4 s hp] at h; simpa using h
  | s5 => rw [blockMove_s5 s hp] at h; simpa using h
  | s6 =>
    cases hn : s.len with
    | none => simp [blockMove, hp, hn] at h
    | some n =>
      cases hd : s.d with
      | none => simp [blockMove, hp, hn, hd] at h
      | some d =>
        rw [blockMove_s6 s hp hn hd] at h
        cases hi : decode (.rxFrame (Config.syncByte :: n :: d)) with
        | error e => rw [runMove_run_error _ hi] at h; cases h
        | ok i =>
          rw [runMove_run_ok _ hi] at h
          obtain ⟨t, p, c, behind, rfl, hdd⟩ := rxInstr_of_decodeRx hi
          exact .inr (.inr (.inr (.inr (.inr (.inr (.inl
            ⟨rfl, t, n, p, c, behind, by rw [hdd], h⟩))))))

/-- All a step can do when it gives a next state. -/
theorem step_cases {u : State} (h : step s = .next u) :
    (∃ b later, s.env = .rxArrive b :: later ∧ u = rxArrive b { s with env := later }) ∨
    (∃ ms later, s.env = .timeAdvances ms :: later ∧ u = timeAdvances ms { s with env := later }) ∨
    (∃ later, s.env = .samplesNow :: later ∧ u = samplesNow { s with env := later }) ∨
    (∃ c later i, s.env = .invoke c :: later ∧ busy s = false ∧ decodeCall c = .ok i ∧
      exec i { s with env := later } = .next u) ∨
    (∃ env' v u0, runMove (blockMove { s with env := env' }) = .next u0 ∧ u = { u0 with readerView := v } ∧
      (v = u0.readerView ∨ ∃ pick, s.env = .overlappingRead pick :: env' ∧
        v = some (mixLinkState pick s.ls u0.ls))) := by
  cases he : s.env with
  | nil =>
    rw [step_env_nil s he] at h
    exact .inr (.inr (.inr (.inr ⟨s.env, _, u, h, rfl, .inl rfl⟩)))
  | cons e later =>
    cases e with
    | invoke c =>
      cases hb : busy s with
      | false =>
        rw [step_env_invoke s he hb] at h
        cases hd : decodeCall c with
        | error e => rw [runMove_run_error _ (show decode (.call c) = _ from hd)] at h; cases h
        | ok i =>
          rw [runMove_run_ok _ (show decode (.call c) = _ from hd)] at h
          exact .inr (.inr (.inr (.inl ⟨c, later, i, rfl, rfl, hd, h⟩)))
      | true =>
        rw [step_env_invoke_busy s he hb] at h
        exact .inr (.inr (.inr (.inr ⟨s.env, _, u, h, rfl, .inl rfl⟩)))
    | rxArrive b =>
      rw [step_env_rxArrive s he] at h
      cases h
      exact .inl ⟨_, _, rfl, rfl⟩
    | timeAdvances ms =>
      rw [step_env_timeAdvances s he] at h
      cases h
      exact .inr (.inl ⟨_, _, rfl, rfl⟩)
    | samplesNow =>
      rw [step_env_samplesNow s he] at h
      cases h
      exact .inr (.inr (.inl ⟨_, rfl, rfl⟩))
    | blockMoves =>
      rw [step_env_blockMoves s he] at h
      exact .inr (.inr (.inr (.inr ⟨later, _, u, h, rfl, .inl rfl⟩)))
    | overlappingRead pick =>
      rw [step_env_overlappingRead s he] at h
      cases hm : runMove (blockMove { s with env := later }) with
      | next u0 =>
        rw [hm] at h
        cases h
        exact .inr (.inr (.inr (.inr ⟨later, _, u0, hm, rfl, .inr ⟨pick, rfl, rfl⟩⟩)))
      | fault f => rw [hm] at h; cases h
      | refused r => rw [hm] at h; cases h

variable (s)

/-! ## A read that overlaps a move -/

theorem overlap_next (pick : ReadPick) (old : LinkState) :
    overlap pick old (.next s) = .next { s with readerView := some (mixLinkState pick old s.ls) } := rfl

theorem mixLinkState_channels (pick : ReadPick) (old new : LinkState) (i : Fin 16) :
    (mixLinkState pick old new).channels[i] =
      if pick.channels[i] then new.channels[i] else old.channels[i] := by
  simp [mixLinkState]

end Sys2Proof.Machine
end

