-- ==== Sys2Proof/Laws/Run.lean ====
section
/-! SUPPORT. Runs of several steps. -/

namespace Sys2Proof.Machine

theorem core_run_next (M : Host.Core) (k : Nat) {s t : M.State} (h : M.step s = .next t) :
    M.run (k + 1) s = M.run k t := by
  simp [Host.Core.run, h]

theorem core_run_fault (M : Host.Core) (k : Nat) {s : M.State} {f : M.Fault}
    (h : M.step s = .fault f) : M.run (k + 1) s = .fault f := by
  simp [Host.Core.run, h]

theorem core_run_refused (M : Host.Core) (k : Nat) {s : M.State} {r : M.Refusal}
    (h : M.step s = .refused r) : M.run (k + 1) s = .refused r := by
  simp [Host.Core.run, h]

theorem steps_eq_core_run (k : Nat) (s : State) : steps k s = Sys2Proof.core.run k s := by
  induction k generalizing s with
  | zero => rfl
  | succ k ih =>
    cases h : step s with
    | next t =>
      have h1 : steps (k + 1) s = steps k t := by simp [steps, h]
      exact h1.trans ((ih t).trans (core_run_next core k h).symm)
    | fault f =>
      have h1 : steps (k + 1) s = .fault f := by simp [steps, h]
      exact h1.trans (core_run_fault core k h).symm
    | refused r =>
      have h1 : steps (k + 1) s = .refused r := by simp [steps, h]
      exact h1.trans (core_run_refused core k h).symm

@[simp] theorem steps_zero (s : State) : steps 0 s = .next s := rfl

theorem steps_succ {k : Nat} {s t : State} (h : step s = .next t) : steps (k + 1) s = steps k t := by
  simp [steps, h]

/-- An idle block that nothing invokes stays as it is. -/
theorem steps_idle (k : Nat) {s : State} (hp : s.phase = .idle) (hb : s.building = none)
    (he : s.env = []) : steps k s = .next s := by
  induction k with
  | zero => rfl
  | succ k ih => rw [steps_succ (t := s), ih]; rw [step_env_nil s he, blockMove_idle s hp hb, runMove_done]

/-- A move that leaves the block idle with nothing to come is the last. -/
theorem steps_then_idle {k : Nat} {s t : State} (h : step s = .next t) (hp : t.phase = .idle)
    (hb : t.building = none) (he : t.env = []) : steps (k + 1) s = .next t := by
  rw [steps_succ h, steps_idle k hp hb he]

/-- The block's move made because an event says so. -/
theorem steps_blockMoves (k : Nat) {s u : State} {later : List Event} (he : s.env = .blockMoves :: later)
    (h : runMove (blockMove { s with env := later }) = .next u) : steps (k + 1) s = steps k u := by
  rw [steps_succ]
  rw [step_env_blockMoves s he, h]

/-- Bytes that arrive one after the other. -/
theorem steps_arrivals (bs : List Byte) (k : Nat) (s : State) (later : List Event)
    (h : s.env = bs.map .rxArrive ++ later) :
    steps (k + bs.length) s = steps k { s with rxq := s.rxq ++ bs, env := later } := by
  induction bs generalizing s with
  | nil => simp at h; simp [← h]
  | cons b bs ih =>
    rw [List.length_cons, ← Nat.add_assoc, steps_succ (step_env_rxArrive s h), ih _ rfl]
    simp [rxArrive]

end Sys2Proof.Machine
end

