-- ==== Sys2Proof/Tests/Slice0.lean ====
section
/-! SUPPORT. The model's own tests. Expected values are those of spec/95_test_vectors.md (its section is
named at each test) or of the rule named. The witnesses at the end show, for each statement with
hypotheses, a state and operands that meet them. -/

namespace Sys2Proof.Tests

open Machine

/-- A small state: reset, with a given queue, Link State cleared where reset leaves it open. -/
def st (rxq : List Byte) : State :=
  { State.reset with
    ls := { channels := Vector.replicate 16 992, linkQuality := 1, rssiDbm := 2, lastPacketTime := 0 },
    now := 0, rxq := rxq }

/-- A POLL under way, with its transients. -/
def poll (phase : Phase) (len : Option Byte) (d : Option (List Byte)) (rxq : List Byte) : State :=
  { st rxq with phase := phase, len := len, d := d }

/-- A part of the next state, none when there is no next state. -/
def after {α : Type} (o : Host.Outcome State Fault Refusal) (f : State → α) : Option α :=
  match o with
  | .next u => some (f u)
  | .fault _ => none
  | .refused _ => none

/-- `n` equal bytes. -/
def bytes (n : Nat) (b : Byte) : List Byte := List.replicate n b

/-! ## WellFormed refuses (R51, R54, R60) -/

theorem test_illFormed_length_below : Instr.wellFormed (.rcChannelsPacked 0x01 [] 0x00) = false := by decide
theorem test_illFormed_length_above :
    Instr.wellFormed (.linkStatistics 0x3F (bytes 61 0x00) 0x00) = false := by decide
theorem test_illFormed_payload_short :
    Instr.wellFormed (.rxUnrecognised 0x7F 0x04 [0xAA] 0xCE) = false := by decide
theorem test_illFormed_type_rc : Instr.wellFormed (.rxUnrecognised 0x16 0x02 [] 0x00) = false := by decide
theorem test_illFormed_type_stats : Instr.wellFormed (.rxUnrecognised 0x14 0x02 [] 0x00) = false := by decide
theorem test_illFormed_name_unterminated : Instr.wellFormed (.flightMode [0x41]) = false := by decide
theorem test_illFormed_name_not_ascii : Instr.wellFormed (.flightMode [0xE9, 0x00]) = false := by decide
theorem test_illFormed_name_long :
    Instr.wellFormed (.flightMode (bytes 60 0x41 ++ [0x00])) = false := by decide

/-! ## Decoding words written from the spec's encodings -/

theorem test_decode_rcChannelsPacked : decode (.rxFrame ([0xC8, 0x18, 0x16] ++ bytes 22 0x00 ++ [0xEF])) =
    .ok (.rcChannelsPacked 0x18 (bytes 22 0x00) 0xEF) := by rfl
theorem test_decode_linkStatistics :
    decode (.rxFrame [0xC8, 0x08, 0x14, 0x00, 0x01, 0x02, 0x03, 0xFF, 0x05, 0xEB]) =
      .ok (.linkStatistics 0x08 [0x00, 0x01, 0x02, 0x03, 0xFF, 0x05] 0xEB) := by rfl
theorem test_decode_rxUnrecognised : decode (.rxFrame [0xC8, 0x03, 0x7F, 0xAA, 0xCE]) =
    .ok (.rxUnrecognised 0x7F 0x03 [0xAA] 0xCE) := by rfl
theorem test_decode_battery :
    decode (.txFrame [0xC8, 0x0A, 0x08, 0x00, 0xA8, 0x00, 0xFF, 0x00, 0x04, 0xE2, 0x00, 0x38]) =
      .ok (.battery 168 255 1250) := by rfl
theorem test_decode_gps :
    decode (.txFrame [0xC8, 0x11, 0x02, 0x1E, 0xB3, 0x67, 0xD0, 0xFF, 0xEC, 0x7F, 0xD0,
      0x00, 0x00, 0x00, 0x00, 0x04, 0x0B, 0x0C, 0xA7]) =
      .ok (.gps 515074000 (BitVec.ofInt 32 (-1278000)) 1035 12) := by rfl
theorem test_decode_attitude :
    decode (.txFrame [0xC8, 0x08, 0x1E, 0x1E, 0xAD, 0xC2, 0xA5, 0x7A, 0xB7, 0xF8]) =
      .ok (.attitude 7853 (BitVec.ofInt 16 (-15707)) 31415) := by rfl
theorem test_decode_flightMode : decode (.txFrame [0xC8, 0x07, 0x21, 0x41, 0x43, 0x52, 0x4F, 0x00, 0x80]) =
    .ok (.flightMode [0x41, 0x43, 0x52, 0x4F, 0x00]) := by rfl
theorem test_decode_poll : decode (.call ⟨0x80, []⟩) = .ok .poll := by rfl
theorem test_decode_crc8 : decode (.call ⟨0x81, [.bytes [0x29]]⟩) = .ok (.crc8 [0x29]) := by rfl
theorem test_decode_getChannelPercent :
    decode (.call ⟨0x82, [.num (-1)]⟩) = .ok (.getChannelPercent (-1)) := by rfl
theorem test_decode_isConnected : decode (.call ⟨0x83, []⟩) = .ok (.isConnected none) := by rfl
theorem test_decode_readState : decode (.call ⟨0x84, []⟩) = .ok .readState := by rfl
theorem test_decode_encGps : decode (.call ⟨0x02, [.num 1, .num 2, .num 3, .num 4]⟩) =
    .ok (.encGps 1 2 3 4) := by rfl
theorem test_decode_encBattery : decode (.call ⟨0x08, [.num 1, .num 2, .num 3]⟩) =
    .ok (.encBattery 1 2 3) := by rfl
theorem test_decode_encAttitude : decode (.call ⟨0x1E, [.num 1, .num 2, .num 3]⟩) =
    .ok (.encAttitude 1 2 3) := by rfl
theorem test_decode_encFlightMode : decode (.call ⟨0x21, [.text [0x41]]⟩) =
    .ok (.encFlightMode [0x41]) := by rfl

/-! ## Decoding refuses -/

theorem test_refuse_code : decode (.call ⟨0x85, []⟩) = .error .noSuchOperation := by rfl
theorem test_refuse_operands : decode (.call ⟨0x82, [.num (mkRat 1 2)]⟩) = .error .operandsDoNotFit := by rfl
theorem test_refuse_sync : decode (.rxFrame [0xC7, 0x02, 0x29, 0x58]) = .error .badSync := by rfl
theorem test_refuse_short : decode (.rxFrame [0xC8, 0x03, 0x7F, 0xAA]) = .error .tooShort := by rfl
theorem test_refuse_type : decode (.txFrame [0xC8, 0x02, 0x29, 0x58]) = .error .notABuiltType := by rfl
theorem test_refuse_percent :
    decode (.txFrame [0xC8, 0x0A, 0x08, 0, 0, 0, 0, 0, 0, 0, 0x01, 0]) = .error .fixedFieldNotZero := by rfl
theorem test_refuse_size :
    decode (.txFrame [0xC8, 0x07, 0x1E, 0, 0, 0, 0, 0, 0]) = .error .badPayloadLength := by rfl

/-! ## Words of the opcode table -/

theorem test_table_header : decodeTableWord 24 0xC80A08 = some (.battery 0 0 0) := by rfl
theorem test_table_received : decodeTableWord 24 0xC80314 = some (.linkStatistics 0x03 [0x00] 0x00) := by rfl
theorem test_table_code : decodeTableWord 8 0x1E = some (.encAttitude 0 0 0) := by rfl
theorem test_table_fetch : step (State.reset.withFetchWord 8 0x84) = exec .readState State.reset := by rfl

/-! ## One step of each instruction -/

/-- 4.1, `p[1] = FF` of the byte table, with the CRC of the rule. -/
theorem test_rcChannelsPacked : after (exec (.rcChannelsPacked 0x18 ([0x00, 0xFF] ++ bytes 20 0x00)
    (crc8 (0x16 :: [0x00, 0xFF] ++ bytes 20 0x00))) (st []))
      (fun u => (u.ls.channels[0], u.ls.channels[1], u.ls.channels[2])) = some (1792, 31, 0) := by
  decide +kernel
/-- 4.2, seventh row. -/
theorem test_rcChannelsPacked_zero : after (exec (.rcChannelsPacked 0x18 (bytes 22 0x00) 0xEF) (st []))
    (fun u => (u.ls.channels[15], u.ls.linkQuality)) = some (0, 1) := by decide +kernel
/-- 4.2, first row. -/
theorem test_linkStatistics : after (exec (.linkStatistics 0x0C
    [0x10, 0x20, 0x30, 0x40, 0x3C, 0x64, 0x70, 0x80, 0x90, 0xA0] 0x6A) (st []))
      (fun u => (u.ls.rssiDbm.toInt, u.ls.linkQuality)) = some (-60, 100) := by decide
/-- 4.2, second row: `p[4]` is unsigned. -/
theorem test_linkStatistics_unsigned :
    after (exec (.linkStatistics 0x08 [0x00, 0x00, 0x00, 0x00, 0xFF, 0x00] 0xEB) (st []))
      (fun u => (u.ls.rssiDbm.toInt, u.ls.linkQuality)) = some (-255, 0) := by decide
/-- 4.2, eighth row. -/
theorem test_rxUnrecognised : after (exec (.rxUnrecognised 0x7F 0x03 [0xAA] 0xCE) (st []))
    (fun u => (u.ls.linkQuality, u.result)) = some (1, some (.frame 0x7F [0xAA])) := by rfl
/-- E2, the third corrupted frame. -/
theorem test_rxUnrecognised_corrupted : after (exec (.rxUnrecognised 0x7F 0x03 [0xAA] 0xCF) (st []))
    (fun u => u.result) = some (some (.noFrame .badCrc)) := by rfl
/-- E3. -/
theorem test_battery : after (exec (.battery 168 255 1250) (st [])) (fun u => u.txlog) =
    some [0xC8, 0x0A, 0x08, 0x00, 0xA8, 0x00, 0xFF, 0x00, 0x04, 0xE2, 0x00, 0x38] := by decide
/-- 5.2, first row. -/
theorem test_gps : after (exec (.gps 515074000 (BitVec.ofInt 32 (-1278000)) 1035 12) (st []))
    (fun u => u.txlog) = some [0xC8, 0x11, 0x02, 0x1E, 0xB3, 0x67, 0xD0, 0xFF, 0xEC, 0x7F, 0xD0,
      0x00, 0x00, 0x00, 0x00, 0x04, 0x0B, 0x0C, 0xA7] := by decide +kernel
/-- 5.3, second row. -/
theorem test_attitude : after (exec (.attitude 7853 (BitVec.ofInt 16 (-15707)) 31415) (st []))
    (fun u => u.txlog) = some [0xC8, 0x08, 0x1E, 0x1E, 0xAD, 0xC2, 0xA5, 0x7A, 0xB7, 0xF8] := by decide
/-- 5.4, first row. -/
theorem test_flightMode : after (exec (.flightMode [0x41, 0x43, 0x52, 0x4F, 0x00]) (st []))
    (fun u => u.txlog) = some [0xC8, 0x07, 0x21, 0x41, 0x43, 0x52, 0x4F, 0x00, 0x80] := by decide
/-- 41_synchronizer.md R90: it begins at S1. -/
theorem test_poll : after (exec .poll (st [0xC8])) (fun u => (u.phase, u.rxq)) =
    some (.s1, [0xC8]) := by decide
/-- Section 2: the check value. -/
theorem test_crc8 : after (exec (.crc8 [0x31, 0x32, 0x33, 0x34, 0x35, 0x36, 0x37, 0x38, 0x39]) (st []))
    (fun u => u.result) = some (some (.crc 0xBC)) := by rfl
/-- 4.3, raw 172 and an index outside. -/
theorem test_getChannelPercent :
    percentOf 172 = mkRat (-82000) 819 ∧ channelPercent (st []).ls 16 = 0 := by decide
/-- 4.4 at `TIME_W = 16`, across the wrap. -/
theorem test_isConnected : isConnectedAt (463 : BitVec 16) 65000 1000 = true ∧
    isConnectedAt (464 : BitVec 16) 65000 1000 = false := by decide
/-- 42_decoder.md R120. -/
theorem test_readState : after (exec .readState (st [])) (fun u => u.result) =
    some (some (.linkState (st []).ls)) := by rfl
/-- 5.2, third row: pack and wrap. -/
theorem test_encGps : after (exec (.encGps (-90) 180 (mkRat (-2001) 2) 255) (st [])) (fun u => u.building) =
    some (some (0x02, [0xCA, 0x5B, 0x17, 0x00, 0x6B, 0x49, 0xD2, 0x00, 0, 0, 0, 0, 0, 0, 0xFF])) := by decide
/-- 5.1, fourth row: truncation and wrap. -/
theorem test_encBattery : after (exec (.encBattery (mkRat 1689 100) (mkRat (-1) 2) 16777217) (st []))
    (fun u => u.building) =
      some (some (0x08, [0x00, 0xA8, 0xFF, 0xFB, 0x00, 0x00, 0x01, 0x00])) := by decide
/-- 5.3, fourth row. -/
theorem test_encAttitude : after (exec (.encAttitude (mkRat 21 2) (mkRat (-1) 100) 190) (st []))
    (fun u => u.building) = some (some (0x1E, [0x07, 0x28, 0xFF, 0xFF, 0x81, 0x89])) := by decide
/-- 5.4: U+00E9. -/
theorem test_encFlightMode : after (exec (.encFlightMode [0xE9]) (st [])) (fun u => (u.result, u.txlog)) =
    some (some .encodingError, []) := by rfl
/-- 5.4: sixty characters have no meaning. -/
theorem test_encFlightMode_long : exec (.encFlightMode (List.replicate 60 0x41)) (st []) =
    .refused .flightModeTooLong := by rfl

/-! ## Steps of a POLL, by section 3's vectors -/

/-- S-2. -/
theorem test_s1 : after (step (poll .s1 none none [0xC8])) (fun u => (u.result, u.rxq)) =
    some (some (.noFrame .noData), [0xC8]) := by rfl
/-- S-5. -/
theorem test_s2 : after (step (poll .s2 none none [0x00, 0xC8, 0x02, 0x29, 0x58]))
    (fun u => (u.result, u.rxq)) = some (some (.noFrame .badSync), []) := by rfl
/-- S-7. -/
theorem test_s4 : after (step (poll .s4 (some 0x01) none [0xAA, 0xBB])) (fun u => (u.result, u.rxq)) =
    some (some (.noFrame .badLength), [0xAA, 0xBB]) := by rfl
/-- S-11. -/
theorem test_s5 : after (step (poll .s5 (some 0x02) none [0x29])) (fun u => (u.result, u.rxq)) =
    some (some (.noFrame .truncated), []) := by rfl
/-- 42_decoder.md R115: a sample taken earlier in the POLL is what DECODE writes. -/
theorem test_stamp : after (step { poll .s4 (some 0x02) none [] with env := [.samplesNow], now := 7 })
      (fun u => u.stamp) = some (some 7) ∧
    after (exec (.rxUnrecognised 0x29 0x02 [] 0x58) { st [] with phase := .s6, stamp := some 7, now := 9 })
      (fun u => u.ls.lastPacketTime) = some 7 := ⟨rfl, rfl⟩
/-- S-14 and S-17, as functions of the queue. -/
theorem test_pollFn : pollFn [0xC8, 0x02, 0x29, 0x59, 0xC8] = ([0xC8], .noFrame .badCrc) ∧
    pollFn [0xC8, 0x02, 0x29, 0x58, 0xC8] = ([0xC8], .frame 0x29 []) := by decide

/-! ## Witnesses: each statement's hypotheses are met -/

/-- A state waiting for what `env` says. -/
def waiting (env : List Event) (rxq : List Byte) : State := { st rxq with env := env }

/-- An ENC operation whose frame is still to be built. -/
def building (t : Byte) (p : List Byte) : State := { st [] with building := some (t, p) }

/-- Three arrivals, one between S1 and S2, one between S3 and S4, one between S4 and S5. -/
def spread : List Event :=
  [.blockMoves, .rxArrive 0x7F, .blockMoves, .blockMoves, .rxArrive 0xAA, .blockMoves, .rxArrive 0xCE]

/-- Three arrivals and no move among them. -/
def atOnce : List Event := [.rxArrive 0x7F, .rxArrive 0xAA, .rxArrive 0xCE]

theorem witness_DecodeOfEncode : Instr.WellFormed (.rcChannelsPacked 0x02 [] 0xD3) ∧
    Instr.WellFormed (.linkStatistics 0x3E (bytes 60 0x00) 0x00) ∧
    Instr.WellFormed (.rxUnrecognised 0x7F 0x03 [0xAA] 0xCE) ∧ Instr.WellFormed (.battery 168 255 1250) ∧
    Instr.WellFormed (.gps 0 0 0 0) ∧ Instr.WellFormed (.attitude 0 0 0) ∧
    Instr.WellFormed (.flightMode [0x00]) ∧ Instr.WellFormed (.flightMode (bytes 59 0x41 ++ [0x00])) ∧
    Instr.WellFormed .poll ∧ Instr.WellFormed (.encFlightMode [0xE9]) := by decide

theorem witness_FrameEnds : rxWellFormed 0x02 [] = true ∧ rxWellFormed 0x3E (bytes 60 0xC8) = true ∧
    txInstr 0x08 (bytes 8 0x00) = .ok (.battery 0 0 0) ∧
    (bytes 60 0x41).length ≤ 60 ∧ txInstr 0x21 (bytes 60 0x41) = .ok (.flightMode (bytes 60 0x41)) :=
  ⟨by decide, by decide, by rfl, by decide, by rfl⟩

theorem witness_SelectCodes : busy (waiting [.invoke ⟨0x85, []⟩] []) = false ∧
    (∀ op : HostOp, selectCode op ≠ (⟨0x85, []⟩ : Call).code) ∧
    (∀ op : HostOp, selectCode op ≠ (⟨0x01, []⟩ : Call).code) :=
  ⟨rfl, fun op => by cases op <;> decide, fun op => by cases op <;> decide⟩

theorem witness_HeaderBytes : rxWellFormed 0x18 (bytes 22 0x00) = true ∧ (bytes 22 0x00).length = 22 ∧
    rxWellFormed 0x08 (bytes 6 0x00) = true ∧ 6 ≤ (bytes 6 0x00).length ∧
    rxWellFormed 0x3E (bytes 60 0x00) = true ∧ 6 ≤ (bytes 60 0x00).length ∧
    (List.replicate 59 0x41).length ≤ 59 ∧ ([] : List Nat).length ≤ 59 := by decide

theorem witness_StepRuns_call : busy (waiting [.invoke ⟨0x84, []⟩] []) = false ∧
    decode (.call ⟨0x84, []⟩) = .ok .readState := ⟨rfl, rfl⟩

theorem witness_StepRuns_received : (poll .s6 (some 0x02) (some [0x29, 0x58]) []).phase = .s6 ∧
    (poll .s6 (some 0x02) (some [0x29, 0x58]) []).env = [] ∧
    { poll .s6 (some 0x02) (some [0x29, 0x58]) [] with env := [.blockMoves] }.env = .blockMoves :: [] ∧
    decode (.rxFrame [0xC8, 0x02, 0x29, 0x58]) = .ok (.rxUnrecognised 0x29 0x02 [] 0x58) :=
  ⟨rfl, rfl, rfl, rfl⟩

theorem witness_StepRuns_built : (building 0x1E (bytes 6 0x00)).phase = .idle ∧
    (building 0x1E (bytes 6 0x00)).env = [] ∧
    { building 0x1E (bytes 6 0x00) with env := [.blockMoves] }.env = .blockMoves :: [] ∧
    decode (.txFrame (frameOf 0x1E (bytes 6 0x00))) = .ok (.attitude 0 0 0) := ⟨rfl, rfl, rfl, rfl⟩

theorem witness_CrcLaws : [0x29, 0x58].length = [0x00, 0xFF].length ∧
    1 < [(0x29 : Byte), 0x58].length ∧ [(0x29 : Byte), 0x58][1]? ≠ some 0x59 := by decide

theorem witness_StepS1 : (poll .s1 none none [0xC8]).rxq.length < 2 ∧
    2 ≤ (poll .s1 none none [0xC8, 0x02]).rxq.length ∧ (poll .s1 none none [0xC8]).phase = .s1 ∧
    (poll .s1 none none [0xC8]).env = [] ∧
    (pollFn [0xC8]).2 = .noFrame .noData ∧ (pollFn [0xC8]).1 = [0xC8] := by decide

theorem witness_StepS2 : (poll .s2 none none [0xC8, 0x02]).phase = .s2 ∧
    (poll .s2 none none [0xC8, 0x02]).env = [] ∧ (poll .s2 none none [0xC8, 0x02]).rxq = 0xC8 :: [0x02] ∧
    (poll .s2 none none [0xC7]).rxq = 0xC7 :: [] ∧ (0xC7 : Byte) ≠ 0xC8 := by decide

theorem witness_EmptyReadAtS2 : (poll .s2 none none []).phase = .s2 ∧ (poll .s2 none none []).env = [] ∧
    (poll .s2 none none []).rxq = [] := by decide

theorem witness_StepS3 : (poll .s3 none none [0x02]).phase = .s3 ∧ (poll .s3 none none [0x02]).env = [] ∧
    (poll .s3 none none [0x02]).rxq = 0x02 :: [] ∧ (poll .s3 none none []).rxq = [] := by decide

theorem witness_StepS4 : (poll .s4 (some 0x3F) none []).phase = .s4 ∧
    (poll .s4 (some 0x3F) none []).len = some 0x3F ∧ (poll .s4 (some 0x3F) none []).env = [] ∧
    ((0x01 : Byte).toNat < 2 ∧ 62 < (0x3F : Byte).toNat) ∧
    (2 ≤ (0x02 : Byte).toNat ∧ (0x3E : Byte).toNat ≤ 62) := by decide

theorem witness_StepS5 : (poll .s5 (some 0x02) none [0x29]).phase = .s5 ∧
    (poll .s5 (some 0x02) none [0x29]).len = some 0x02 ∧ (poll .s5 (some 0x02) none [0x29]).env = [] ∧
    (poll .s5 (some 0x02) none [0x29]).rxq.length < (0x02 : Byte).toNat ∧
    (0x02 : Byte).toNat ≤ (poll .s5 (some 0x02) none [0x29, 0x58]).rxq.length := by decide

theorem witness_StepS6 : (poll .s6 (some 0x02) (some [0x29, 0x58]) []).phase = .s6 ∧
    (poll .s6 (some 0x02) (some [0x29, 0x58]) []).d = some (0x29 :: [] ++ [0x58]) ∧
    rxWellFormed 0x02 [] = true ∧ crc8 (0x29 :: []) = 0x58 ∧ crc8 (0x29 :: []) ≠ 0x59 := by decide

theorem witness_PollIsPollFn : busy (st [0xC8, 0x02, 0x29, 0x58]) = false ∧
    (st [0xC8, 0x02, 0x29, 0x58]).env = [] := by decide

theorem witness_BytesConsumed : (pollFn [0xC8]).2 = .noFrame .noData ∧
    (pollFn [0x55, 0xC8]).2 = .noFrame .badSync ∧ (pollFn [0xC8, 0xFF]).2 = .noFrame .badLength ∧
    (pollFn [0xC8, 0x02]).2 = .noFrame .truncated ∧ (pollFn [0xC8, 0x02, 0x29, 0x59]).2 = .noFrame .badCrc ∧
    (pollFn [0xC8, 0x02, 0x29, 0x58]).2 = .frame 0x29 [] := by decide

theorem witness_PollingEmpty : busy (waiting (List.replicate 2 (.invoke ⟨0x80, []⟩)) [0xC8]) = false ∧
    (waiting (List.replicate 2 (.invoke ⟨0x80, []⟩)) [0xC8]).rxq.length < 2 ∧ 0 < 2 := ⟨rfl, by decide, by decide⟩

theorem witness_BuiltFrames : ([] : List Byte).length ≤ 60 ∧ (bytes 60 0x00).length ≤ 60 := by decide

theorem witness_OneCorrupted : [(0xAA : Byte)].length ≤ 60 ∧ 0 < [(0xAA : Byte)].length + 2 ∧
    (frameOf 0x7F [0xAA])[0 + 2]? ≠ some 0x7E ∧ 2 < [(0xAA : Byte)].length + 2 ∧
    (frameOf 0x7F [0xAA])[2 + 2]? ≠ some 0xCF := by decide

theorem witness_Chunked : frameOf 0x29 [] = [0xC8, 0x02] ++ [0x29, 0x58] ∧ 2 ≤ [(0xC8 : Byte), 0x02].length ∧
    [(0x29 : Byte), 0x58] ≠ [] ∧ [(0x29 : Byte), 0x58].head? ≠ some 0xC8 ∧
    2 ≤ ([0x29, 0x58] ++ ([] : List Byte)).length := by decide

/-- Spread over S1 to S4 with two moves after as events; all at once before S1 with none. -/
theorem witness_ArrivalsBeforeS5 : [(0xAA : Byte)].length ≤ 60 ∧
    frameOf 0x7F [0xAA] = [0xC8, 0x03] ++ [0x7F, 0xAA, 0xCE] ∧ 2 ≤ [(0xC8 : Byte), 0x03].length ∧
    busy (waiting (.invoke ⟨0x80, []⟩ :: (spread ++ (List.replicate 2 .blockMoves ++ [.rxArrive 0x55])))
      [0xC8, 0x03]) = false ∧
    (∀ e ∈ spread, e = .blockMoves ∨ (arriving e).isSome = true) ∧
    spread.filterMap arriving = [0x7F, 0xAA, 0xCE] ∧ spread.count .blockMoves = 4 ∧
    (∀ e ∈ atOnce, e = .blockMoves ∨ (arriving e).isSome = true) ∧
    atOnce.filterMap arriving = [0x7F, 0xAA, 0xCE] ∧ atOnce.count .blockMoves = 0 ∧
    busy (waiting (.invoke ⟨0x80, []⟩ :: (atOnce ++ (List.replicate 0 .blockMoves ++ [])))
      [0xC8, 0x03]) = false :=
  ⟨by decide, by decide, by decide, rfl, by decide, by decide, by decide, by decide, by decide, by decide, rfl⟩

theorem witness_ArrivalsAfterS5 : frameOf 0x29 [] = [0xC8, 0x02, 0x29] ++ [0x58] ∧ [(0x58 : Byte)] ≠ [] ∧
    busy (waiting ([.invoke ⟨0x80, []⟩, .blockMoves, .blockMoves, .blockMoves, .blockMoves, .blockMoves]
      ++ [0x58].map .rxArrive) [0xC8, 0x02, 0x29]) = false := ⟨by decide, by decide, rfl⟩

theorem witness_RcFrame : rxWellFormed 0x18 (bytes 22 0x00) = true ∧ (bytes 22 0x00).length = 22 ∧
    crc8 (0x16 :: bytes 22 0x00) = 0xEF := by decide +kernel

theorem witness_RcFrameOther : rxWellFormed 0x17 (bytes 21 0x00) = true ∧ (bytes 21 0x00).length ≠ 22 ∧
    crc8 (0x16 :: bytes 21 0x00) = 0x80 ∧ rxWellFormed 0x19 (bytes 23 0x00) = true ∧
    (bytes 23 0x00).length ≠ 22 ∧ crc8 (0x16 :: bytes 23 0x00) = 0xAB := by decide +kernel

theorem witness_LinkStatistics : rxWellFormed 0x08 [0x00, 0x00, 0x00, 0x00, 0xFF, 0x00] = true ∧
    [(0x00 : Byte), 0x00, 0x00, 0x00, 0xFF, 0x00][4]? = some 0xFF ∧
    [(0x00 : Byte), 0x00, 0x00, 0x00, 0xFF, 0x00][5]? = some 0x00 ∧
    crc8 (0x14 :: [0x00, 0x00, 0x00, 0x00, 0xFF, 0x00]) = 0xEB := by decide

theorem witness_ShortLinkStatistics : rxWellFormed 0x07 [0x01, 0x02, 0x03, 0x04, 0x05] = true ∧
    [(0x01 : Byte), 0x02, 0x03, 0x04, 0x05].length < 6 ∧
    crc8 (0x14 :: [0x01, 0x02, 0x03, 0x04, 0x05]) = 0x08 := by decide

theorem witness_Unrecognised : (0x7F : Byte) ≠ 0x16 ∧ (0x7F : Byte) ≠ 0x14 ∧
    rxWellFormed 0x03 [0xAA] = true ∧ crc8 (0x7F :: [0xAA]) = 0xCE := by decide

/-- S6 of a link-statistics frame: it changes Link State. -/
def statsAtS6 : State :=
  poll .s6 (some 0x08) (some [0x14, 0x00, 0x00, 0x00, 0x00, 0xFF, 0x00, 0xEB]) []

theorem witness_OnlyAnAcceptedFrame : ∃ u : State, step statsAtS6 = .next u ∧ u.ls ≠ statsAtS6.ls :=
  ⟨_, rfl, fun h => absurd (congrArg LinkState.linkQuality h) (by decide)⟩

theorem witness_NoFrame : (∃ u : State, (poll .s1 none none []).phase ≠ .idle ∧
      step (poll .s1 none none []) = .next u ∧ ∃ c : Cause, u.result = some (.noFrame c)) ∧
    (∃ u : State, step (poll .s4 (some 0x02) none []) = .next u ∧ u.phase ≠ .idle) :=
  ⟨⟨_, by decide, rfl, .noData, rfl⟩, ⟨_, rfl, by decide⟩⟩

theorem witness_OverlappingRead : ∃ u : State,
    step { statsAtS6 with env := .blockMoves :: [] } = .next u := ⟨_, rfl⟩

theorem witness_ChannelPercent : ((-1 : Int) < 0 ∨ 15 < (-1 : Int)) ∧ ((16 : Int) < 0 ∨ 15 < (16 : Int)) := by
  decide

theorem witness_Connected : (st []).now = (st []).ls.lastPacketTime ∧
    (none : Option Config.Time) ≠ some 0 ∧ (some (0 : Config.Time)) = some 0 :=
  ⟨rfl, fun h => (nomatch h), rfl⟩

theorem witness_Liveness : (1 : Config.Time) ≠ 0 := by
  intro h
  have h1 := congrArg BitVec.toNat h
  have h2 : 1 < 2 ^ Config.timeW := Nat.one_lt_two_pow (by unfold Config.timeW; omega)
  simp [Nat.mod_eq_of_lt h2] at h1

theorem witness_Wrap : (0 < 16 ∧ -2 ^ (16 - 1) ≤ (-32768 : Int) ∧ (-32768 : Int) < 2 ^ (16 - 1)) ∧
    -2 ^ (16 - 1) ≤ (32767 : Int) ∧ (32767 : Int) < 2 ^ (16 - 1) := by decide

theorem witness_Enc : (st []).phase = .idle ∧ (st []).building = none ∧ (st []).env = [] := by decide

theorem witness_EncFlightMode : (∃ c ∈ [0x41, 0x80], 0x7F < c) ∧
    (∀ c ∈ List.replicate 60 0x7F, c ≤ 0x7F) ∧ 59 < (List.replicate 60 0x7F).length ∧
    (∀ c ∈ List.replicate 59 0x7F, c ≤ 0x7F) ∧ (List.replicate 59 0x7F).length ≤ 59 := by decide

theorem witness_BuiltFrame : Instr.WellFormed (.battery 168 255 1250) ∧
    (∃ b, encode (.battery 168 255 1250) = .txFrame b) ∧ (∃ b, encode (.gps 0 0 0 0) = .txFrame b) ∧
    (∃ b, encode (.attitude 0 0 0) = .txFrame b) ∧ Instr.WellFormed (.flightMode [0x00]) ∧
    (∃ b, encode (.flightMode [0x00]) = .txFrame b) :=
  ⟨rfl, ⟨_, rfl⟩, ⟨_, rfl⟩, ⟨_, rfl⟩, rfl, ⟨_, rfl⟩⟩

theorem witness_EncodingError : (∃ u : State, exec (.encFlightMode [0xE9]) (st []) = .next u ∧
    u.result = some .encodingError) ∧ busy (st []) = false ∧ (∃ c ∈ [0xE9], 0x7F < c) :=
  ⟨⟨_, rfl, rfl⟩, rfl, by decide⟩

theorem witness_EncoderIsStateless : isTransmit (.encBattery 1 2 3) = true ∧
    (∃ u : State, exec (.encBattery 1 2 3) (st []) = .next u) ∧
    (∃ u : State, exec (.encBattery 1 2 3) (st [0xC8]) = .next u) := ⟨rfl, ⟨_, rfl⟩, ⟨_, rfl⟩⟩

theorem witness_TxStream : Inv (building 0x1E (bytes 6 0x00)) ∧
    ∃ u : State, step (building 0x1E (bytes 6 0x00)) = .next u := ⟨rfl, _, rfl⟩

theorem witness_EveryStep : (Inv (poll .s5 (some 0x02) none [0x29, 0x58]) ∧
      ∃ u : State, step (poll .s5 (some 0x02) none [0x29, 0x58]) = .next u) ∧
    Inv statsAtS6 ∧ (∃ u : State, step statsAtS6 = .next u) ∧
    Inv (waiting [.invoke ⟨0x1E, [.num 0, .num 0, .num 0]⟩] []) ∧
    ∃ u : State, step (waiting [.invoke ⟨0x1E, [.num 0, .num 0, .num 0]⟩] []) = .next u :=
  ⟨⟨rfl, _, rfl⟩, rfl, ⟨_, rfl⟩, rfl, _, rfl⟩

theorem witness_StepsAreTotal : Inv (waiting [.invoke ⟨0x85, []⟩] []) ∧
    Inv (waiting [.invoke ⟨0x21, [.text (List.replicate 60 0x41)]⟩] []) ∧ Inv (st []) := ⟨rfl, rfl, rfl⟩

theorem witness_OutsideAgents : (waiting [.rxArrive 0x55] []).env = .rxArrive 0x55 :: [] ∧
    (waiting [.timeAdvances 3] []).env = .timeAdvances 3 :: [] := by decide

theorem witness_OneOperation :
    busy { statsAtS6 with env := .invoke ⟨0x84, []⟩ :: [] } = true ∧
    ∃ u : State, step { statsAtS6 with env := [] } = .next u := ⟨rfl, _, rfl⟩

theorem witness_Phase : (∃ u : State, step (poll .s1 none none []) = .next u ∧ u.phase = .idle) ∧
    (∃ u : State, step (waiting [.invoke ⟨0x80, []⟩] []) = .next u ∧ u.phase ≠ .idle) :=
  ⟨⟨_, rfl, rfl⟩, ⟨_, rfl, by decide⟩⟩

theorem witness_Queue : (∃ u : State, step (poll .s2 none none [0x55, 0xC8]) = .next u) ∧
    ∃ u : State, step (waiting [.rxArrive 0x55] []) = .next u := ⟨⟨_, rfl⟩, ⟨_, rfl⟩⟩

theorem witness_InstructionsChange : (∃ u : State, exec .poll (st []) = .next u) ∧
    (∀ b : List Byte, encode .poll ≠ .txFrame b) ∧ (∀ b : List Byte, encode .poll ≠ .rxFrame b) :=
  ⟨⟨_, rfl⟩, fun _ h => (nomatch h), fun _ h => (nomatch h)⟩

end Sys2Proof.Tests
end

section
/-! The extent of a frame on the wire, 30_encoding.md R52: the decoder on the bytes of a received and of a
built frame, whatever stands behind them. -/

namespace Sys2Proof

open Machine

@[simp] theorem rxBytes_length (t n : Byte) (p : List Byte) (crc : Byte) :
    (rxBytes t n p crc).length = p.length + 4 := by
  simp [rxBytes]

/-- A built frame is a received frame whose length and CRC bytes are computed (R50). -/
theorem frameOf_eq_rxBytes (t : Byte) (p : List Byte) :
    frameOf t p = rxBytes t (BitVec.ofNat 8 (p.length + 2)) p (crc8 (t :: p)) := by
  simp [frameOf, rxBytes]

theorem decodeRx_rxBytes_append {n : Byte} {p : List Byte} (h : rxWellFormed n p = true) (t crc : Byte)
    (behind : List Byte) :
    decodeRx (rxBytes t n p crc ++ behind) = .ok (rxInstr t n p crc, behind) := by
  simp [rxBytes, decodeRx, payloadExtent_of_rxWellFormed h]

theorem decodeTx_rxBytes_append {t n : Byte} {p : List Byte} {i : Instr} (h : rxWellFormed n p = true)
    (hi : txInstr t p = .ok i) (crc : Byte) (behind : List Byte) :
    decodeTx (rxBytes t n p crc ++ behind) = .ok (i, behind) := by
  have hdrop : (p ++ crc :: behind).drop (p.length + 1) = behind := by simp [List.drop_append]
  simp [rxBytes, decodeTx, payloadExtent_of_rxWellFormed h, hi, hdrop]

theorem decodeTx_frameOf_append {t : Byte} {p : List Byte} {i : Instr} (hp : p.length ≤ 60)
    (hi : txInstr t p = .ok i) (behind : List Byte) :
    decodeTx (frameOf t p ++ behind) = .ok (i, behind) := by
  rw [frameOf_eq_rxBytes]
  exact decodeTx_rxBytes_append (rxWellFormed_lengthByte hp) hi _ behind

/-- Settles O2: a well-formed length byte announces exactly the payload, so both decoders stop behind the
frame's CRC byte; the sizes follow from `#payload = length - 2` and the range of the length byte (R51). -/
theorem frameEndsWhereItsLengthByteSays : Obligations.FrameEndsWhereItsLengthByteSays := by
  refine ⟨fun t n p crc behind h => ⟨decodeRx_rxBytes_append h t crc behind, ?_⟩,
    fun t p i behind hp hi => ⟨decodeTx_frameOf_append hp hi behind, frameOf_length t p⟩⟩
  have hlen := (rxWellFormed_iff n p).1 h
  rw [rxBytes_length]
  omega

end Sys2Proof
end

section
/-! The steps S1 to S5 of a POLL as steps of the machine, 41_synchronizer.md R91 to R95, and what a POLL takes
from the queue. -/

namespace Sys2Proof

open Machine

/-- With no event to come, a move that is no instruction of the table is the whole step. -/
theorem step_of_blockMove_done {s : State} {o : Host.Outcome State Fault Refusal} (he : s.env = [])
    (hm : blockMove s = .done o) : step s = o := by
  rw [step_env_nil s he, hm, runMove_done]

theorem pollFn_of_length_lt_two {q : List Byte} (h : q.length < 2) : pollFn q = (q, .noFrame .noData) :=
  if_pos h

/-- A POLL that finds two bytes takes at least one: every way out behind S1 flushes the queue or drops
bytes from its head. -/
theorem pollFn_queue_length_lt {q : List Byte} (h : 2 ≤ q.length) : (pollFn q).1.length < q.length := by
  have hflush : ([] : List Byte).length < q.length := by simp; omega
  have hdrop (k : Nat) : (q.drop (k + 2)).length < q.length := by rw [List.length_drop]; omega
  unfold pollFn
  rw [if_neg (by omega)]
  split
  · exact hflush
  · dsimp only
    split
    · exact hdrop 0
    · split
      · exact hflush
      · split
        · exact hdrop _
        · exact hdrop _

/-- Settles O10: S1 alone by `moveS1`; a POLL that leaves the queue as it was took no byte from it, so it
found fewer than two and ended at S1. -/
theorem stepS1RejectsBelowTwoBytes : Obligations.StepS1RejectsBelowTwoBytes := by
  refine ⟨fun s hp he => ?_, fun q c hc hq => ?_⟩
  · rw [step_of_blockMove_done he (blockMove_s1 s hp)]
    exact ⟨fun h => by rw [moveS1_short h]; rfl, fun h => by rw [moveS1_filled (by omega)]⟩
  · have hshort : q.length < 2 := by
      by_contra h
      have hlt := pollFn_queue_length_lt (q := q) (by omega)
      rw [hq] at hlt
      exact lt_irrefl _ hlt
    simpa [pollFn_of_length_lt_two hshort] using hc.symm

/-- Settles O11: the byte S2 reads is the head of the queue, so the comparison is on that byte. -/
theorem stepS2FlushesOnBadSync : Obligations.StepS2FlushesOnBadSync := by
  intro s b rest hp he hq
  rw [step_of_blockMove_done he (blockMove_s2 s hp)]
  have hhead : s.rxq.take 1 = [Config.syncByte] ↔ b = 0xC8 := by
    rw [hq]
    exact List.singleton_inj
  refine ⟨fun hb => ?_, fun hb => ?_⟩
  · rw [moveS2_sync (hhead.2 hb)]
    simp [rxDropped, hq]
  · rw [moveS2_other (mt hhead.1 hb)]
    rfl

/-- Settles O13: on an empty queue the read drops nothing, so the reject leaves the queue as it was. -/
theorem stepS3ReadsTheLengthByte : Obligations.StepS3ReadsTheLengthByte := by
  intro s hp he
  rw [step_of_blockMove_done he (blockMove_s3 s hp)]
  refine ⟨fun n rest hq => ?_, fun hq => ?_⟩
  · rw [moveS3_cons hq]
    simp [rxDropped, hq]
  · rw [moveS3_nil hq]
    simp [reject, endPoll, rxDropped, hq]

/-- Settles O14: the range S4 tests is that of a legal length byte (30_encoding.md R51). -/
theorem stepS4RejectsIllegalLengths : Obligations.StepS4RejectsIllegalLengths := by
  intro s n hp hn he
  rw [step_of_blockMove_done he (blockMove_s4 s hp)]
  refine ⟨fun h => ?_, fun h => ?_⟩
  · rw [moveS4_illegal hn ((lengthLegal_eq_false_iff n).2 h)]
    rfl
  · rw [moveS4_legal hn ((lengthLegal_iff n).2 h)]

/-- Settles O15: a short read takes all there is, so it leaves the queue empty. -/
theorem stepS5DropsATruncatedFrame : Obligations.StepS5DropsATruncatedFrame := by
  intro s n hp hn he
  rw [step_of_blockMove_done he (blockMove_s5 s hp)]
  refine ⟨fun h => ?_, fun h => ?_⟩
  · have hempty : s.rxq.drop n.toNat = [] := List.drop_eq_nil_of_le h.le
    rw [moveS5_short hn h]
    simp [reject, endPoll, rxDropped, hempty]
  · rw [moveS5_whole hn h]
    rfl

end Sys2Proof
end

section
/-! The transmit side is noninterfering, 43_encoder.md R136: which shared operation an ENC operation or a
built frame is, and with which type and payload, is fixed by its operands. -/

namespace Sys2Proof

open Machine

/-- All a transmit instruction can be. The operation stands outside the quantifier over the states, so no
state has a say in it. -/
theorem exec_transmit_cases {i : Instr} (ht : isTransmit i = true) :
    (∃ t p, ∀ s, exec i s = .next (build t p s)) ∨
    (∃ t p, ∀ s, exec i s = .next (beginFrame t p s)) ∨
    (∀ s, exec i s = .next (raiseEncodingError s)) ∨
    (∀ s, exec i s = .refused .flightModeTooLong) := by
  cases i with
  | battery v a c => exact .inl ⟨_, _, fun s => exec_battery s v a c⟩
  | gps la lo al sa => exact .inl ⟨_, _, fun s => exec_gps s la lo al sa⟩
  | attitude p r y => exact .inl ⟨_, _, fun s => exec_attitude s p r y⟩
  | flightMode p =>
    obtain hp | hp := le_or_gt p.length 60
    · exact .inl ⟨_, _, fun s => exec_flightMode s hp⟩
    · exact .inr (.inr (.inr fun s => exec_flightMode_long s hp))
  | encBattery v a c => exact .inr (.inl ⟨_, _, fun s => exec_encBattery s v a c⟩)
  | encGps la lo al sa => exact .inr (.inl ⟨_, _, fun s => exec_encGps s la lo al sa⟩)
  | encAttitude p r y => exact .inr (.inl ⟨_, _, fun s => exec_encAttitude s p r y⟩)
  | encFlightMode name =>
    cases ha : allAscii name with
    | false => exact .inr (.inr (.inl fun s => exec_encFlightMode_raises s ha))
    | true =>
      obtain hl | hl := le_or_gt name.length 59
      · exact .inr (.inl ⟨_, _, fun s => exec_encFlightMode_begins s ha hl⟩)
      · exact .inr (.inr (.inr fun s => exec_encFlightMode_long s ha hl))
  | rcChannelsPacked | linkStatistics | rxUnrecognised | poll | crc8 | getChannelPercent | isConnected
  | readState => cases ht

/-- Settles O49: both states run the same shared operation with the same type and payload. BUILD appends the
frame of these two, the others append nothing, and a refusal gives no next state to compare. -/
theorem encoderIsStateless : Obligations.EncoderIsStateless := by
  intro i s u s' u' ht hu hu'
  obtain ⟨t, p, h⟩ | ⟨t, p, h⟩ | h | h := exec_transmit_cases ht <;> rw [h] at hu hu' <;>
    cases hu <;> cases hu'
  · exact ⟨rfl, rfl, rfl, rfl, frameOf t p, rfl, rfl⟩
  · exact ⟨rfl, rfl, rfl, rfl, [], by simp⟩
  · exact ⟨rfl, rfl, rfl, rfl, [], by simp⟩

end Sys2Proof
end

section
/-! Encoding: every instruction is read back from its encoding, 30_encoding.md R50 to R60 and R66. -/

namespace Sys2Proof

open Machine

theorem lengthLegal_of_rxWellFormed {n : Byte} {p : List Byte} (h : rxWellFormed n p = true) :
    lengthLegal n = true :=
  (Bool.and_eq_true_iff.1 h).1

theorem decode_rxFrame_rxBytes {n : Byte} {p : List Byte} (h : rxWellFormed n p = true) (t crc : Byte) :
    decode (.rxFrame (rxBytes t n p crc)) = .ok (rxInstr t n p crc) := by
  have hd := decodeRx_rxBytes_append h t crc []
  rw [List.append_nil] at hd
  simp only [decode, hd]
  rfl

theorem decode_txFrame_frameOf {t : Byte} {p : List Byte} {i : Instr} (hp : p.length ≤ 60)
    (hi : txInstr t p = .ok i) : decode (.txFrame (frameOf t p)) = .ok i := by
  have hd := decodeTx_frameOf_append hp hi []
  rw [List.append_nil] at hd
  simp only [decode, hd]
  rfl

@[simp] theorem decode_callOf (op : HostOp) (args : List Arg) :
    decode (callOf op args) = hostInstr op args := by
  simp [decode, callOf, decodeCall, opOfCode_selectCode]

/-- Settles O1: a received frame is read back by the extent its length byte announces, a built one by its
payload's layout, a host operation by its select code. -/
theorem decodeOfEncodeIsTheInstruction : Obligations.DecodeOfEncodeIsTheInstruction := by
  intro i hw
  cases i with
  | rcChannelsPacked n p crc => exact decode_rxFrame_rxBytes hw _ crc
  | linkStatistics n p crc => exact decode_rxFrame_rxBytes hw _ crc
  | rxUnrecognised t n p crc =>
    simp only [Instr.WellFormed, Instr.wellFormed, Bool.and_eq_true, bne_iff_ne] at hw
    obtain ⟨⟨hp, hrc⟩, hstats⟩ := hw
    exact (decode_rxFrame_rxBytes hp t crc).trans (by simp [rxInstr, hrc, hstats])
  | battery v a c => exact decode_txFrame_frameOf (by simp [batteryPayload_length]) (txInstr_battery v a c)
  | gps la lo al sa => exact decode_txFrame_frameOf (by simp [gpsPayload_length]) (txInstr_gps la lo al sa)
  | attitude p r y =>
    exact decode_txFrame_frameOf (by simp [attitudePayload_length]) (txInstr_attitude p r y)
  | flightMode p =>
    exact decode_txFrame_frameOf ((flightModeWellFormed_iff p).1 hw).1 (txInstr_flightMode p)
  | isConnected timeout => cases timeout <;> simp [encode, hostInstr]
  | poll | crc8 | readState | encAttitude | encFlightMode => simp [encode, hostInstr]
  | getChannelPercent | encGps | encBattery => simp [encode, hostInstr, asInteger_intCast]

/-- Settles O3: the table is searched for the code, so a code that is none of the nine is not found. -/
theorem selectCodesNameTheirOperations : Obligations.SelectCodesNameTheirOperations := by
  refine ⟨rfl, opOfCode_selectCode, fun s c later hb he hc => ?_⟩
  have hd : decode (.call c) = .error .noSuchOperation := by simp [decode, decodeCall, opOfCode_eq_none hc]
  rw [step_env_invoke s he hb, runMove_run_error _ hd]

/-- Settles O4: the decoder run on eight literal words. -/
theorem wordsOfTheSpecDecode : Obligations.WordsOfTheSpecDecode :=
  ⟨rfl, rfl, rfl, rfl, rfl, rfl, rfl, rfl⟩

/-- The header of a built frame follows from the number of its payload bytes alone. -/
theorem frameOf_header {t : Byte} {p : List Byte} {k : Nat} (h : p.length = k) :
    (frameOf t p).take 3 = [0xC8, BitVec.ofNat 8 (k + 2), t] ∧ (frameOf t p).length = k + 4 := by
  subst h
  exact ⟨rfl, frameOf_length t p⟩

/-- Settles O5: a frame begins with the sync byte, the length byte and its type, and has two bytes more than
the length byte says (R51, R52). -/
theorem headerBytesOfEachFrame : Obligations.HeaderBytesOfEachFrame := by
  refine ⟨fun n p crc hw hp => ?_, fun n p crc hw hp => ?_, fun v a c => ?_, fun la lo al sa => ?_,
    fun p r y => ?_, fun name _ => ?_⟩
  · have hn : n = 0x18 := BitVec.eq_of_toNat_eq (by rw [← ((rxWellFormed_iff n p).1 hw).2, hp]; rfl)
    exact ⟨by rw [hn]; rfl, by rw [rxBytes_length, hp]⟩
  · have hlen := (rxWellFormed_iff n p).1 hw
    rw [rxBytes_length]
    exact ⟨rfl, by omega⟩
  · exact frameOf_header (batteryPayload_length v a c)
  · exact frameOf_header (gpsPayload_length la lo al sa)
  · exact frameOf_header (attitudePayload_length p r y)
  · exact frameOf_header (flightModePayload_length name)

end Sys2Proof
end

section
/-! What an instruction and the block's own move leave alone: the frame of `exec`, and that neither looks at
what is still to come, 20_memory.md R40, R41. -/

namespace Sys2Proof

open Machine

/-- The next state of an outcome with the coming events replaced. -/
def withEnv (e : List Event) : Host.Outcome State Fault Refusal → Host.Outcome State Fault Refusal
  | .next u => .next { u with env := e }
  | .fault f => .fault f
  | .refused r => .refused r

theorem receive_with_env (t n : Byte) (p : List Byte) (crc : Byte) (arm : LinkState → LinkState) (s : State)
    (e : List Event) :
    receive t n p crc arm { s with env := e } = { receive t n p crc arm s with env := e } := by
  unfold receive
  split
  · rfl
  · split
    · rfl
    · split <;> rfl

theorem exec_with_env (i : Instr) (s : State) (e : List Event) :
    exec i { s with env := e } = withEnv e (exec i s) := by
  cases ht : isTransmit i with
  | true =>
    obtain ⟨t, p, h⟩ | ⟨t, p, h⟩ | h | h := exec_transmit_cases ht <;> rw [h, h] <;> rfl
  | false =>
    cases i with
    | rcChannelsPacked | linkStatistics | rxUnrecognised =>
      exact congrArg Host.Outcome.next (receive_with_env ..)
    | poll | crc8 | getChannelPercent | isConnected | readState => rfl
    | battery | gps | attitude | flightMode | encGps | encBattery | encAttitude | encFlightMode => cases ht

theorem runMove_run_with_env (x : Encoded) (s : State) (e : List Event) :
    runMove (.run x { s with env := e }) = withEnv e (runMove (.run x s)) := by
  cases h : decode x with
  | ok i => rw [runMove_run_ok _ h, runMove_run_ok _ h, exec_with_env]
  | error err =>
    rw [runMove_run_error _ h, runMove_run_error _ h]
    rfl

theorem moveS1_with_env (s : State) (e : List Event) :
    moveS1 { s with env := e } = { moveS1 s with env := e } := by
  by_cases h : s.rxq.length < 2
  · rw [moveS1_short h, moveS1_short (s := { s with env := e }) h]
    rfl
  · rw [moveS1_filled h, moveS1_filled (s := { s with env := e }) h]

theorem moveS2_with_env (s : State) (e : List Event) :
    moveS2 { s with env := e } = { moveS2 s with env := e } := by
  by_cases h : s.rxq.take 1 = [Config.syncByte]
  · rw [moveS2_sync h, moveS2_sync (s := { s with env := e }) h]
    rfl
  · rw [moveS2_other h, moveS2_other (s := { s with env := e }) h]
    rfl

theorem moveS3_with_env (s : State) (e : List Event) :
    moveS3 { s with env := e } = { moveS3 s with env := e } := by
  simp only [moveS3, rxTaken]
  split <;> rfl

theorem moveS4_with_env (s : State) (e : List Event) :
    moveS4 { s with env := e } = withEnv e (moveS4 s) := by
  simp only [moveS4]
  split
  · rfl
  · split <;> rfl

theorem moveS5_with_env (s : State) (e : List Event) :
    moveS5 { s with env := e } = withEnv e (moveS5 s) := by
  obtain hn | ⟨n, hn⟩ := Option.eq_none_or_eq_some s.len
  · simp [moveS5, hn, withEnv]
  · obtain h | h := lt_or_ge s.rxq.length n.toNat
    · rw [moveS5_short hn h, moveS5_short (s := { s with env := e }) hn h]
      rfl
    · rw [moveS5_whole hn h, moveS5_whole (s := { s with env := e }) hn h]
      rfl

/-- The block's own move is the same whatever is to come, and leaves it. -/
theorem blockMove_with_env (s : State) (e : List Event) :
    runMove (blockMove { s with env := e }) = withEnv e (runMove (blockMove s)) := by
  obtain ⟨ls, phase, len, d, stamp, building, rxq, txlog, now, result, env, view⟩ := s
  cases phase with
  | idle =>
    cases building with
    | none => rfl
    | some tp => exact runMove_run_with_env (.txFrame (frameOf tp.1 tp.2)) _ e
  | s1 => exact congrArg Host.Outcome.next (moveS1_with_env _ e)
  | s2 => exact congrArg Host.Outcome.next (moveS2_with_env _ e)
  | s3 => exact congrArg Host.Outcome.next (moveS3_with_env _ e)
  | s4 => exact moveS4_with_env _ e
  | s5 => exact moveS5_with_env _ e
  | s6 =>
    cases len with
    | none => rfl
    | some n =>
      cases d with
      | none => rfl
      | some d => exact runMove_run_with_env (.rxFrame (Config.syncByte :: n :: d)) _ e

/-- Every shared operation sets the result, so none depends on the one before. -/
theorem exec_with_result (i : Instr) (s : State) (r : Option Result) :
    exec i { s with result := r } = exec i s := by
  cases i <;> rfl

/-- Settles O60: of the shared operations an instruction can be, `accept` alone writes Link State and
`build` alone the TX stream; none touches the queue, the timer or the agents. -/
theorem instructionsChangeOnlyTheirOwn : Obligations.InstructionsChangeOnlyTheirOwn := by
  intro i s u h
  have hr (r : Option Result) := exec_with_result i s r
  obtain ⟨t, n, p, c, arm, rfl, b, hb⟩ | ⟨t, p, rfl, ⟨b, hb⟩, -⟩ | ⟨rfl, rfl⟩ | ⟨r, rfl, -⟩ |
    ⟨t, p, j, rfl, -⟩ | ⟨name, rfl, -, rfl⟩ := exec_cases s h
  · obtain ⟨c, hc⟩ | ⟨-, hc⟩ := receive_cases s t n p c arm <;> rw [hc]
    · exact ⟨rfl, rfl, rfl, rfl, fun _ => rfl, fun _ => rfl, hr⟩
    · exact ⟨rfl, rfl, rfl, rfl, fun _ => rfl, fun hn => absurd hb (hn b), hr⟩
  · exact ⟨rfl, rfl, rfl, rfl, fun hn => absurd hb (hn b), fun _ => rfl, hr⟩
  all_goals exact ⟨rfl, rfl, rfl, rfl, fun _ => rfl, fun _ => rfl, hr⟩

/-- Settles O6: the three places `nextMove` fetches from. -/
theorem stepRunsTheDecodedInstruction : Obligations.StepRunsTheDecodedInstruction := by
  refine ⟨fun s c later i hb he hd => ?_, fun s n d later i hp hn hd hi => ⟨fun he => ?_, fun he => ?_⟩,
    fun s t p later i hp hb hi => ⟨fun he => ?_, fun he => ?_⟩⟩
  · rw [step_env_invoke s he hb, runMove_run_ok _ hd]
  · rw [step_env_nil s he, blockMove_s6 s hp hn hd]
    exact runMove_run_ok s hi
  · rw [step_env_blockMoves s he, blockMove_s6 { s with env := later } hp hn hd]
    exact runMove_run_ok _ hi
  · rw [step_env_nil s he, blockMove_building s hp hb, runMove_run_ok _ hi]
  · rw [step_env_blockMoves s he, blockMove_building { s with env := later } hp hb, runMove_run_ok _ hi]

/-- Settles O57: waiting for the invocation or let move by an event, the block makes the move it makes with
nothing to come, by `blockMove_with_env`. -/
theorem oneOperationAtATime : Obligations.OneOperationAtATime := by
  intro s u later h
  have hmove (e : List Event) : runMove (blockMove { s with env := e }) = .next { u with env := e } := by
    rw [step_env_nil { s with env := [] } rfl] at h
    exact (blockMove_with_env { s with env := [] } e).trans (congrArg (withEnv e) h)
  refine ⟨fun c hb he => ?_, ?_⟩
  · rw [step_env_invoke_busy s he hb]
    exact hmove s.env
  · rw [step_env_blockMoves { s with env := .blockMoves :: later } rfl]
    exact hmove later

/-- Settles O56, by the step of each of the three events. -/
theorem outsideAgentsActBetweenMoves : Obligations.OutsideAgentsActBetweenMoves := by
  refine ⟨fun s b later he => step_env_rxArrive s he,
    fun s ms later he => ⟨_, ?_, step_env_timeAdvances s he⟩, fun s later he => ?_⟩
  · rw [BitVec.toNat_add, BitVec.toNat_ofNat, Nat.add_mod_mod]
  · rw [step_env_samplesNow s he]
    refine ⟨fun hp => ?_, fun hp => ?_⟩
    · rw [samplesNow_poll { s with env := later } hp]
    · rw [samplesNow_idle { s with env := later } hp]

end Sys2Proof
end

section
/-! What a step can change, from any state: Link State, the RX queue and the phase, and what a second reader
sees of it. -/

namespace Sys2Proof

open Machine

/-- All a received frame's instruction can do: reject, or, when the CRC matches, accept and DECODE. -/
theorem exec_rxInstr_cases {s u : State} {t n : Byte} {p : List Byte} {c : Byte}
    (h : exec (rxInstr t n p c) s = .next u) :
    (∃ cause, u = reject cause s) ∨
    (crc8 (t :: p) = c ∧ ∃ arm, u = accept t p arm s ∧ u.ls = decodeFrame t p (stampTime s) s.ls) := by
  obtain ⟨arm, ha, hd⟩ := exec_rxInstr s t n p c
  rw [ha] at h
  cases h
  obtain ⟨cause, hc⟩ | ⟨hcrc, hc⟩ := receive_cases s t n p c arm <;> rw [hc]
  · exact .inl ⟨cause, rfl⟩
  · exact .inr ⟨hcrc, arm, rfl, hd s.ls (stampTime s)⟩

/-- All the instruction of a frame being built can do when it gives a next state. -/
theorem exec_built_cases {s u : State} {bytes : List Byte} {i : Instr} (hd : decode (.txFrame bytes) = .ok i)
    (h : exec i s = .next u) : ∃ t p, u = build t p s := by
  obtain ⟨b, hb⟩ := encode_of_decodeTx hd
  obtain ⟨_, _, _, _, _, -, b', hb'⟩ | ⟨t, p, hu, -⟩ | ⟨rfl, -⟩ | ⟨_, -, -, -, c, hc⟩ |
    ⟨_, _, _, -, -, -, ⟨c, hc⟩, -⟩ | ⟨_, rfl, -⟩ := exec_cases s h
  · rw [hb] at hb'; cases hb'
  · exact ⟨t, p, hu⟩
  · cases hb
  · rw [hb] at hc; cases hc
  · rw [hb] at hc; cases hc
  · cases hb

/-- All the instruction of a host's invocation can do when it gives a next state. -/
theorem exec_invoked_cases {s u : State} {c : Call} {i : Instr} (hd : decodeCall c = .ok i)
    (h : exec i s = .next u) :
    (i = .poll ∧ u = startPoll s) ∨ (∃ r, u = report r s) ∨
    (∃ t p j, u = beginFrame t p s ∧ txInstr t p = .ok j ∧ j.WellFormed) ∨ u = raiseEncodingError s := by
  obtain ⟨c', hc⟩ := encode_of_decodeCall hd
  obtain ⟨_, _, _, _, _, -, b, hb⟩ | ⟨_, _, -, ⟨b, hb⟩, -⟩ | hpoll | ⟨r, hu, -⟩ |
    ⟨t, p, j, hu, hj, hw, -⟩ | ⟨_, -, -, hu⟩ := exec_cases s h
  · rw [hc] at hb; cases hb
  · rw [hc] at hb; cases hb
  · exact .inl hpoll
  · exact .inr (.inl ⟨r, hu⟩)
  · exact .inr (.inr (.inl ⟨t, p, j, hu, hj, hw⟩))
  · exact .inr (.inr (.inr hu))

/-- The effects the block's own move can have, without the reason for each: nothing, BUILD of a frame, a
reject, the next step of the POLL, or acceptance of the received frame. -/
theorem blockMove_effects {s u : State} (h : runMove (blockMove s) = .next u) :
    (s.phase = .idle ∧ u = s) ∨ (s.phase = .idle ∧ ∃ t p, u = build t p s) ∨
    (s.phase ≠ .idle ∧ ∃ c k, u = reject c { s with rxq := s.rxq.drop k }) ∨
    (s.phase ≠ .idle ∧ s.phase ≠ .s6 ∧ ∃ n d k,
      u = { s with phase := phaseAfter s.phase, len := n, d := d, rxq := s.rxq.drop k }) ∨
    (s.phase = .s6 ∧ ∃ t p behind arm, s.d = some (t :: p ++ crc8 (t :: p) :: behind) ∧
      u = accept t p arm s ∧ u.ls = decodeFrame t p (stampTime s) s.ls) := by
  obtain ⟨hp, -, rfl⟩ | ⟨hp, rfl⟩ | ⟨hp, rfl⟩ | ⟨hp, rfl⟩ | ⟨hp, h4⟩ | ⟨hp, h5⟩ |
    ⟨hp, t, n, p, c, behind, hbody, hx⟩ | ⟨hp, t, p, i, -, hi, hx⟩ := blockMove_cases h
  case inl => exact .inl ⟨hp, rfl⟩
  case inr.inr.inr.inr.inr.inr.inr => exact .inr (.inl ⟨hp, exec_built_cases hi hx⟩)
  all_goals refine .inr (.inr ?_)
  · obtain h1 | h1 := moveS1_cases (s := s) <;> rw [h1, hp]
    · exact .inl ⟨by simp, _, 0, rfl⟩
    · exact .inr (.inl ⟨by simp, by simp, _, _, 0, rfl⟩)
  · obtain h2 | h2 := moveS2_cases (s := s) <;> rw [h2, hp]
    · exact .inl ⟨by simp, _, s.rxq.length, by rw [List.drop_length]; rfl⟩
    · exact .inr (.inl ⟨by simp, by simp, _, _, 1, rfl⟩)
  · obtain h3 | ⟨n, h3⟩ := moveS3_cases (s := s) <;> rw [h3, hp]
    · exact .inl ⟨by simp, _, 1, rfl⟩
    · exact .inr (.inl ⟨by simp, by simp, _, _, 1, rfl⟩)
  · obtain ⟨n, -, ⟨-, rfl⟩ | rfl⟩ := moveS4_cases h4 <;> rw [hp]
    · exact .inr (.inl ⟨by simp, by simp, _, _, 0, rfl⟩)
    · exact .inl ⟨by simp, _, 0, rfl⟩
  · obtain ⟨n, -, ⟨-, rfl⟩ | rfl⟩ := moveS5_cases h5 <;> rw [hp]
    · exact .inr (.inl ⟨by simp, by simp, _, _, n.toNat, rfl⟩)
    · exact .inl ⟨by simp, _, n.toNat, rfl⟩
  · obtain ⟨cause, rfl⟩ | ⟨rfl, arm, rfl, hls⟩ := exec_rxInstr_cases hx
    · exact .inl ⟨by simp [hp], cause, 0, rfl⟩
    · exact .inr (.inr ⟨hp, t, p, behind, arm, hbody, rfl, hls⟩)

/-- Settles O33: of all a step can do, only `accept` of the frame received writes Link State. -/
theorem onlyAnAcceptedFrameWritesLinkState : Obligations.OnlyAnAcceptedFrameWritesLinkState := by
  intro s u h hne
  obtain ⟨b, later, -, rfl⟩ | ⟨ms, later, -, rfl⟩ | ⟨later, -, rfl⟩ | ⟨c, later, i, -, -, hd, hx⟩ |
    ⟨env', v, u0, hm, rfl, -⟩ := step_cases h
  · exact absurd rfl hne
  · exact absurd rfl hne
  · exact absurd (samplesNow_ls _) hne
  · obtain ⟨-, rfl⟩ | ⟨r, rfl⟩ | ⟨t, p, j, rfl, -⟩ | rfl := exec_invoked_cases hd hx <;> exact absurd rfl hne
  · obtain ⟨-, rfl⟩ | ⟨-, t, p, rfl⟩ | ⟨-, c, k, rfl⟩ | ⟨-, -, n, d, k, rfl⟩ |
      ⟨hp, t, p, behind, arm, hbody, rfl, hls⟩ := blockMove_effects hm
    case inr.inr.inr.inr => exact ⟨hp, t, p, behind, hbody, rfl, rfl, hls⟩
    all_goals exact absurd rfl hne

/-- Settles O34: where Link State changes, the POLL has ended, and with a frame. -/
theorem noFrameMeansNoLinkStateWrite : Obligations.NoFrameMeansNoLinkStateWrite := by
  intro s u _ h hno
  by_contra hne
  obtain ⟨-, t, p, -, -, hres, hidle, -⟩ := onlyAnAcceptedFrameWritesLinkState s u h hne
  obtain hp | ⟨c, hc⟩ := hno
  · exact hp hidle
  · rw [hres] at hc
    cases hc

theorem phaseAfter_eq_idle {p : Phase} (h : phaseAfter p = .idle) : p = .s6 := by
  cases p <;> cases h
  rfl

/-- Settles O58. A move of the block goes on to the next phase, or ends the POLL with a reject, or, at S6 only,
with the frame; any other step keeps the phase, but for POLL on an idle block. -/
theorem phaseNeverGoesBackOrSkips : Obligations.PhaseNeverGoesBackOrSkips := by
  refine ⟨rfl, fun s u h => ?_⟩
  obtain ⟨b, later, -, rfl⟩ | ⟨ms, later, -, rfl⟩ | ⟨later, -, rfl⟩ | ⟨c, later, i, he, hb, hd, hx⟩ |
    ⟨env', v, u0, hm, rfl, -⟩ := step_cases h
  · exact ⟨.inl rfl, fun h0 _ h1 => absurd h1 h0, fun h0 h1 => absurd h0 h1⟩
  · exact ⟨.inl rfl, fun h0 _ h1 => absurd h1 h0, fun h0 h1 => absurd h0 h1⟩
  · rw [samplesNow_phase]
    exact ⟨.inl rfl, fun h0 _ h1 => absurd h1 h0, fun h0 h1 => absurd h0 h1⟩
  · have hidle : s.phase = .idle := ((busy_eq_false_iff s).1 hb).1
    obtain ⟨rfl, rfl⟩ | ⟨r, rfl⟩ | ⟨t, p, j, rfl, -⟩ | rfl := exec_invoked_cases hd hx
    case inl =>
      exact ⟨.inr (.inr (by rw [hidle]; rfl)), fun h0 => absurd hidle h0, fun _ _ => ⟨c, later, he, hd⟩⟩
    all_goals exact ⟨.inl rfl, fun h0 => absurd hidle h0, fun h0 h1 => absurd h0 h1⟩
  · obtain ⟨hp, rfl⟩ | ⟨hp, t, p, rfl⟩ | ⟨hp, c, k, rfl⟩ | ⟨hp, h6, n, d, k, rfl⟩ |
      ⟨hp, t, p, behind, arm, -, rfl, -⟩ := blockMove_effects hm
    · exact ⟨.inl rfl, fun h0 => absurd hp h0, fun h0 h1 => absurd h0 h1⟩
    · exact ⟨.inl rfl, fun h0 => absurd hp h0, fun h0 h1 => absurd h0 h1⟩
    · exact ⟨.inr (.inl rfl), fun _ _ _ => ⟨c, rfl⟩, fun h0 => absurd h0 hp⟩
    · exact ⟨.inr (.inr rfl), fun _ _ hi => absurd (phaseAfter_eq_idle hi) h6, fun h0 => absurd h0 hp⟩
    · exact ⟨.inr (.inl rfl), fun _ h0 => absurd hp h0, fun _ h1 => absurd rfl h1⟩

/-- Settles O59: the moves of a POLL drop bytes from the head, and no instruction touches the queue. -/
theorem queueIsOnlyReadAtItsHead : Obligations.QueueIsOnlyReadAtItsHead := by
  intro s u h
  obtain ⟨b, later, he, rfl⟩ | ⟨ms, later, -, rfl⟩ | ⟨later, -, rfl⟩ | ⟨c, later, i, -, -, -, hx⟩ |
    ⟨env', v, u0, hm, rfl, -⟩ := step_cases h
  · exact .inr ⟨b, later, he, rfl⟩
  · exact .inl ⟨0, rfl, fun _ => rfl⟩
  · exact .inl ⟨0, samplesNow_rxq _, fun _ => samplesNow_rxq _⟩
  · have hq : u.rxq = s.rxq := (instructionsChangeOnlyTheirOwn _ _ _ hx).1
    exact .inl ⟨0, hq, fun _ => hq⟩
  · obtain ⟨-, rfl⟩ | ⟨-, t, p, rfl⟩ | ⟨hp, c, k, rfl⟩ | ⟨hp, -, n, d, k, rfl⟩ |
      ⟨-, t, p, behind, arm, -, rfl, -⟩ := blockMove_effects hm
    · exact .inl ⟨0, rfl, fun _ => rfl⟩
    · exact .inl ⟨0, rfl, fun _ => rfl⟩
    · exact .inl ⟨k, rfl, fun h0 => absurd h0 hp⟩
    · exact .inl ⟨k, rfl, fun h0 => absurd h0 hp⟩
    · exact .inl ⟨0, rfl, fun _ => rfl⟩

theorem mixLinkState_eachOldOrNew (pick : ReadPick) (old new : LinkState) :
    EachOldOrNew old new (mixLinkState pick old new) := by
  refine ⟨fun i => ?_, (ite_eq_or_eq ..).symm, (ite_eq_or_eq ..).symm, (ite_eq_or_eq ..).symm⟩
  rw [mixLinkState_channels]
  exact (ite_eq_or_eq ..).symm

/-- The choice that takes the new value of exactly the registers where `v` has it. -/
def pickOf (new v : LinkState) : ReadPick where
  channels := Vector.ofFn fun i : Fin 16 => v.channels[i] == new.channels[i]
  linkQuality := v.linkQuality == new.linkQuality
  rssiDbm := v.rssiDbm == new.rssiDbm
  lastPacketTime := v.lastPacketTime == new.lastPacketTime

theorem ite_beq_of_or {α : Type} [DecidableEq α] {v old new : α} (h : v = old ∨ v = new) :
    (if v == new then new else old) = v := by
  by_cases hv : v = new
  · simp [hv]
  · exact (if_neg (by simpa using hv)).trans (h.resolve_right hv).symm

/-- Every mix of old and new registers is what its choice gives. -/
theorem mixLinkState_pickOf {old new v : LinkState} (h : EachOldOrNew old new v) :
    mixLinkState (pickOf new v) old new = v := by
  obtain ⟨hch, hq, hr, ht⟩ := h
  have hch' : (mixLinkState (pickOf new v) old new).channels = v.channels := by
    ext1 i hi
    refine (mixLinkState_channels _ old new ⟨i, hi⟩).trans ?_
    simpa [pickOf] using ite_beq_of_or (hch ⟨i, hi⟩)
  cases v
  simp only [mixLinkState, pickOf, LinkState.mk.injEq] at hch' ⊢
  exact ⟨hch', ite_beq_of_or hq, ite_beq_of_or hr, ite_beq_of_or ht⟩

/-- Settles O35: the move is the one a `.blockMoves` event lets happen; the read adds its view of it. -/
theorem overlappingReadSeesAnyMix : Obligations.OverlappingReadSeesAnyMix := by
  intro s u later h
  rw [step_env_blockMoves { s with env := .blockMoves :: later } rfl] at h
  have hread (pick : ReadPick) : step { s with env := .overlappingRead pick :: later } =
      .next { u with readerView := some (mixLinkState pick s.ls u.ls) } :=
    (step_env_overlappingRead { s with env := .overlappingRead pick :: later } rfl).trans
      (congrArg (overlap pick s.ls) h)
  exact ⟨fun pick => ⟨_, mixLinkState_eachOldOrNew pick s.ls u.ls, hread pick⟩,
    fun v hv => ⟨pickOf u.ls v, by rw [hread, mixLinkState_pickOf hv]⟩⟩

end Sys2Proof
end

section
/-! The invariant of the transients and of the frame being built, and what it gives: every step keeps it, the
TX stream grows by whole frames, and a step is total up to what has no meaning. -/

namespace Sys2Proof

open Machine

/-- A frame the block can build: the type and the payload of a well-formed built frame (R64). -/
def Buildable (t : Byte) (p : List Byte) : Prop := ∃ i, txInstr t p = .ok i ∧ i.WellFormed

theorem buildingFits_iff (s : State) : buildingFits s = true ↔
    ∀ t p, s.building = some (t, p) → s.phase = .idle ∧ Buildable t p := by
  unfold buildingFits Buildable
  cases hb : s.building with
  | none => simp
  | some tp =>
    obtain ⟨t, p⟩ := tp
    cases hi : txInstr t p <;> simp [hi]

theorem inv_iff (s : State) :
    Inv s ↔ transientsFit s = true ∧ (s.phase = .idle → s.stamp = none) ∧
      ∀ t p, s.building = some (t, p) → s.phase = .idle ∧ Buildable t p := by
  rw [Machine.Inv, Bool.and_eq_true, Bool.and_eq_true, buildingFits_iff, and_assoc]
  simp [stampFits, or_iff_not_imp_left]

/-- Outside a POLL the invariant asks for no transients, and for a frame the block can build, if any. -/
theorem inv_iff_of_idle {s : State} (hp : s.phase = .idle) :
    Inv s ↔ (s.len = none ∧ s.d = none) ∧ s.stamp = none ∧
      ∀ t p, s.building = some (t, p) → Buildable t p := by
  have ht : transientsFit s = true ↔ s.len = none ∧ s.d = none := by
    unfold transientsFit
    rw [hp]
    cases s.len <;> cases s.d <;> simp
  rw [inv_iff, ht]
  simp [hp]

/-- Within a POLL the invariant asks for the transients of its phase, and no frame is being built. -/
theorem inv_iff_of_poll {s : State} (hp : s.phase ≠ .idle) :
    Inv s ↔ transientsFit s = true ∧ s.building = none := by
  rw [inv_iff]
  simp [hp, Option.eq_none_iff_forall_ne_some]

theorem transientsFit_s4 {s : State} (hp : s.phase = .s4) :
    transientsFit s = true ↔ (∃ n, s.len = some n) ∧ s.d = none := by
  unfold transientsFit
  rw [hp]
  cases s.len <;> cases s.d <;> simp

theorem transientsFit_s5 {s : State} (hp : s.phase = .s5) :
    transientsFit s = true ↔ (∃ n, s.len = some n ∧ lengthLegal n = true) ∧ s.d = none := by
  unfold transientsFit
  rw [hp]
  cases s.len <;> cases s.d <;> simp

theorem transientsFit_s6 {s : State} (hp : s.phase = .s6) :
    transientsFit s = true ↔
      ∃ n d, s.len = some n ∧ s.d = some d ∧ lengthLegal n = true ∧ d.length = n.toNat := by
  unfold transientsFit
  rw [hp]
  cases s.len <;> cases s.d <;> simp

theorem transientsFit_before_s4 {s : State} (hp : s.phase = .s1 ∨ s.phase = .s2 ∨ s.phase = .s3) :
    transientsFit s = true ↔ s.len = none ∧ s.d = none := by
  unfold transientsFit
  obtain hp | hp | hp := hp <;> rw [hp] <;> cases s.len <;> cases s.d <;> simp

/-- The end of a POLL, with a frame or without, leaves no transient. -/
theorem inv_endPoll (r : Result) {s : State} (hb : s.building = none) : Inv (endPoll r s) := by
  rw [inv_iff_of_idle rfl]
  simp [hb]

/-- Settles O53: reset is idle, with no transient and no frame being built. -/
theorem invariantHoldsAtReset : Obligations.InvariantHoldsAtReset :=
  (inv_iff_of_idle rfl).2 ⟨⟨rfl, rfl⟩, rfl, fun _ _ h => nomatch h⟩

/-- Settles O51: `State.reset` written out; each channel is the mid reference. -/
theorem resetLeavesWhatTheSpecGives : Obligations.ResetLeavesWhatTheSpecGives := by
  refine ⟨fun i => ?_, rfl, rfl, rfl, rfl, rfl⟩
  simp [State.reset, LinkState.reset, Config.chMid]

/-! ## The frame being built -/

/-- BUILD is the move of an ENC operation in progress. -/
theorem blockMove_builds {s : State} {t : Byte} {p : List Byte} (hp : s.phase = .idle)
    (hb : s.building = some (t, p)) (hbuild : Buildable t p) :
    runMove (blockMove s) = .next (build t p s) := by
  obtain ⟨i, hi, hw⟩ := hbuild
  rw [blockMove_building s hp hb,
    runMove_run_ok s (decode_txFrame_frameOf (payload_length_of_txInstr hi hw).2 hi), exec_of_txInstr s hi hw]

/-- Settles O50: of all a step can do only `build` writes the TX stream, and it is BUILD of the frame under
construction, whose payload has 1 to 60 bytes. -/
theorem txStreamGrowsByWholeFrames : Obligations.TxStreamGrowsByWholeFrames := by
  intro s u hinv h
  obtain ⟨b, later, -, rfl⟩ | ⟨ms, later, -, rfl⟩ | ⟨later, -, rfl⟩ | ⟨c, later, i, -, -, hd, hx⟩ |
    ⟨env', v, u0, hm, rfl, -⟩ := step_cases h
  · exact .inl rfl
  · exact .inl rfl
  · exact .inl (samplesNow_txlog _)
  · obtain ⟨-, rfl⟩ | ⟨r, rfl⟩ | ⟨t, p, j, rfl, -⟩ | rfl := exec_invoked_cases hd hx <;> exact .inl rfl
  · cases hb : s.building with
    | some tp =>
      obtain ⟨t, p⟩ := tp
      obtain ⟨hp, hbuild⟩ := ((inv_iff s).1 hinv).2.2 t p hb
      have hmove := blockMove_builds (s := { s with env := env' }) hp hb hbuild
      rw [hmove] at hm
      cases hm
      obtain ⟨i, hi, hw⟩ := hbuild
      have hlen := payload_length_of_txInstr hi hw
      have hsize := frameOf_length t p
      exact .inr ⟨t, p, rfl, rfl, rfl, rfl, by omega, by omega⟩
    | none =>
      obtain ⟨-, rfl⟩ | ⟨hp, t, p, rfl⟩ | ⟨-, c, k, rfl⟩ | ⟨-, -, n, d, k, rfl⟩ |
        ⟨-, t, p, behind, arm, -, rfl, -⟩ := blockMove_effects hm
      case inr.inl =>
        rw [blockMove_idle { s with env := env' } hp hb] at hm
        have htx := congrArg State.txlog (Host.Outcome.next.inj hm)
        exact .inl htx.symm
      all_goals exact .inl rfl

/-! ## Every step keeps the invariant -/

/-- The invariant does not look at what is outside the block or at the reader's view. -/
theorem inv_congr {s u : State} (hp : u.phase = s.phase) (hl : u.len = s.len) (hd : u.d = s.d)
    (hs : u.stamp = s.stamp) (hb : u.building = s.building) : Inv u ↔ Inv s := by
  rw [inv_iff, inv_iff, transientsFit, transientsFit, hp, hl, hd, hs, hb]

theorem inv_samplesNow {s : State} (h : Inv s) : Inv (samplesNow s) := by
  by_cases hp : s.phase = .idle
  · rwa [samplesNow_idle s hp]
  · rw [samplesNow_poll s hp]
    exact (inv_iff_of_poll (s := { s with stamp := some s.now }) hp).2 ((inv_iff_of_poll hp).1 h)

theorem inv_exec_invoked {s u : State} {c : Call} {i : Instr} (hinv : Inv s) (hb : busy s = false)
    (hd : decodeCall c = .ok i) (hx : exec i s = .next u) : Inv u := by
  have hidle := ((busy_eq_false_iff s).1 hb).1
  obtain ⟨htr, hst, hbf⟩ := (inv_iff_of_idle hidle).1 hinv
  obtain ⟨-, rfl⟩ | ⟨r, rfl⟩ | ⟨t, p, j, rfl, hj, hw⟩ | rfl := exec_invoked_cases hd hx
  · exact (inv_iff_of_poll (s := startPoll s) (by simp)).2 ⟨rfl, ((busy_eq_false_iff s).1 hb).2⟩
  · exact (inv_iff_of_idle (s := report r s) hidle).2 ⟨htr, hst, hbf⟩
  · refine (inv_iff_of_idle (s := beginFrame t p s) hidle).2 ⟨htr, hst, fun t' p' h => ?_⟩
    cases h
    exact ⟨j, hj, hw⟩
  · exact (inv_iff_of_idle (s := raiseEncodingError s) hidle).2 ⟨htr, hst, fun _ _ h => nomatch h⟩

/-- The block's own move keeps the invariant: S3 reads the length byte, S4 passes a legal one only, S5 takes
as many bytes as it says, and every end of a POLL forgets them. -/
theorem inv_blockMove {s u : State} (hinv : Inv s) (h : runMove (blockMove s) = .next u) : Inv u := by
  obtain ⟨hp, -, rfl⟩ | ⟨hp, rfl⟩ | ⟨hp, rfl⟩ | ⟨hp, rfl⟩ | ⟨hp, h4⟩ | ⟨hp, h5⟩ |
    ⟨hp, t, n, p, c, behind, -, hx⟩ | ⟨hp, t, p, i, -, hi, hx⟩ := blockMove_cases h
  case inl => exact hinv
  case inr.inr.inr.inr.inr.inr.inr =>
    obtain ⟨htr, hst, -⟩ := (inv_iff_of_idle hp).1 hinv
    obtain ⟨t', p', rfl⟩ := exec_built_cases hi hx
    exact (inv_iff_of_idle (s := build t' p' s) hp).2 ⟨htr, hst, fun _ _ h => nomatch h⟩
  all_goals obtain ⟨htr, hb⟩ := (inv_iff_of_poll (by simp [hp])).1 hinv
  · obtain h1 | h1 := moveS1_cases (s := s) <;> rw [h1]
    · exact inv_endPoll _ hb
    · rw [transientsFit_before_s4 (.inl hp)] at htr
      exact (inv_iff_of_poll (by simp)).2 ⟨(transientsFit_before_s4 (by simp)).2 htr, hb⟩
  · obtain h2 | h2 := moveS2_cases (s := s) <;> rw [h2]
    · exact inv_endPoll _ hb
    · rw [transientsFit_before_s4 (.inr (.inl hp))] at htr
      exact (inv_iff_of_poll (by simp)).2 ⟨(transientsFit_before_s4 (by simp)).2 htr, hb⟩
  · obtain h3 | ⟨n, h3⟩ := moveS3_cases (s := s) <;> rw [h3]
    · exact inv_endPoll _ hb
    · rw [transientsFit_before_s4 (.inr (.inr hp))] at htr
      exact (inv_iff_of_poll (by simp)).2 ⟨(transientsFit_s4 rfl).2 ⟨⟨n, rfl⟩, htr.2⟩, hb⟩
  · obtain ⟨n, hn, ⟨hlegal, rfl⟩ | rfl⟩ := moveS4_cases h4
    · rw [transientsFit_s4 hp] at htr
      exact (inv_iff_of_poll (by simp)).2 ⟨(transientsFit_s5 rfl).2 ⟨⟨n, hn, hlegal⟩, htr.2⟩, hb⟩
    · exact inv_endPoll _ hb
  · obtain ⟨n, hn, ⟨hq, rfl⟩ | rfl⟩ := moveS5_cases h5
    · obtain ⟨⟨n', hn', hlegal⟩, -⟩ := (transientsFit_s5 hp).1 htr
      obtain rfl : n' = n := Option.some.inj (hn'.symm.trans hn)
      exact (inv_iff_of_poll (by simp)).2
        ⟨(transientsFit_s6 rfl).2 ⟨n', _, hn, rfl, hlegal, List.length_take_of_le hq⟩, hb⟩
    · exact inv_endPoll _ hb
  · obtain ⟨cause, rfl⟩ | ⟨-, arm, rfl, -⟩ := exec_rxInstr_cases hx <;> exact inv_endPoll _ hb

/-- Settles O54: what comes from outside the block touches none of the invariant's fields but the sample, which
is taken within a POLL only; the invocations and the block's own moves are the two lemmas above. -/
theorem everyStepKeepsTheInvariant : Obligations.EveryStepKeepsTheInvariant := by
  intro s u hinv h
  have henv (e : List Event) : Inv { s with env := e } := (inv_congr rfl rfl rfl rfl rfl).1 hinv
  obtain ⟨b, later, -, rfl⟩ | ⟨ms, later, -, rfl⟩ | ⟨later, -, rfl⟩ | ⟨c, later, i, -, hb, hd, hx⟩ |
    ⟨env', v, u0, hm, rfl, -⟩ := step_cases h
  · exact (inv_congr rfl rfl rfl rfl rfl).1 hinv
  · exact (inv_congr rfl rfl rfl rfl rfl).1 hinv
  · exact inv_samplesNow (henv later)
  · exact inv_exec_invoked (henv later) hb hd hx
  · exact (inv_congr (s := u0) rfl rfl rfl rfl rfl).2 (inv_blockMove (henv env') hm)

/-! ## Steps are total -/

/-- A whole body after a legal length byte is a type, a payload of the announced length and a CRC byte. -/
theorem body_of_legal {n : Byte} {d : List Byte} (hn : lengthLegal n = true) (hd : n.toNat ≤ d.length) :
    ∃ t p c behind, d = t :: p ++ c :: behind ∧ rxWellFormed n p = true := by
  have hrange := (lengthLegal_iff n).1 hn
  cases d with
  | nil => simp at hd; omega
  | cons t rest =>
    rw [List.length_cons] at hd
    have hk : n.toNat - 2 < rest.length := by omega
    refine ⟨t, rest.take (n.toNat - 2), rest[n.toNat - 2], rest.drop (n.toNat - 2 + 1), ?_, ?_⟩
    · rw [List.cons_append, List.getElem_cons_drop, List.take_append_drop]
    · rw [rxWellFormed_iff, List.length_take_of_le hk.le]
      omega

/-- A body of exactly the announced length has nothing behind its CRC byte. -/
theorem body_of_legal_exact {n : Byte} {d : List Byte} (hn : lengthLegal n = true) (hd : d.length = n.toNat) :
    ∃ t p c, d = t :: p ++ [c] ∧ rxWellFormed n p = true := by
  obtain ⟨t, p, c, behind, rfl, hw⟩ := body_of_legal hn hd.ge
  have hlen := ((rxWellFormed_iff n p).1 hw).2
  have hnil : behind = [] := by
    rw [← List.length_eq_zero_iff]
    simp only [List.cons_append, List.length_cons, List.length_append] at hd
    omega
  exact ⟨t, p, c, by rw [hnil], hw⟩

/-- From a state that meets the invariant the block's own move is never stopped. -/
theorem blockMove_total {s : State} (hinv : Inv s) : ∃ u, runMove (blockMove s) = .next u := by
  cases hp : s.phase with
  | idle =>
    obtain hb | ⟨⟨t, p⟩, hb⟩ := Option.eq_none_or_eq_some s.building
    · exact ⟨s, by rw [blockMove_idle s hp hb, runMove_done]⟩
    · exact ⟨_, blockMove_builds hp hb (((inv_iff s).1 hinv).2.2 t p hb).2⟩
  | s1 => exact ⟨_, by rw [blockMove_s1 s hp, runMove_done]⟩
  | s2 => exact ⟨_, by rw [blockMove_s2 s hp, runMove_done]⟩
  | s3 => exact ⟨_, by rw [blockMove_s3 s hp, runMove_done]⟩
  | s4 =>
    obtain ⟨⟨n, hn⟩, -⟩ := (transientsFit_s4 hp).1 ((inv_iff s).1 hinv).1
    rw [blockMove_s4 s hp, runMove_done]
    cases hl : lengthLegal n with
    | false => exact ⟨_, moveS4_illegal hn hl⟩
    | true => exact ⟨_, moveS4_legal hn hl⟩
  | s5 =>
    obtain ⟨⟨n, hn, -⟩, -⟩ := (transientsFit_s5 hp).1 ((inv_iff s).1 hinv).1
    rw [blockMove_s5 s hp, runMove_done]
    obtain hq | hq := lt_or_ge s.rxq.length n.toNat
    · exact ⟨_, moveS5_short hn hq⟩
    · exact ⟨_, moveS5_whole hn hq⟩
  | s6 =>
    obtain ⟨n, d, hn, hd, hlegal, hlen⟩ := (transientsFit_s6 hp).1 ((inv_iff s).1 hinv).1
    obtain ⟨t, p, c, rfl, hw⟩ := body_of_legal_exact hlegal hlen
    have hdec : decode (.rxFrame (Config.syncByte :: n :: (t :: p ++ [c]))) = .ok (rxInstr t n p c) :=
      decode_rxFrame_rxBytes hw t c
    obtain ⟨arm, hx, -⟩ := exec_rxInstr s t n p c
    exact ⟨_, by rw [blockMove_s6 s hp hn hd, runMove_run_ok s hdec, hx]⟩

/-- The one refusal of a host operation: an ASCII flight-mode name of more than 59 characters. -/
theorem exec_invoked_total {c : Call} {i : Instr} (hd : decodeCall c = .ok i) (s : State) :
    (∃ u, exec i s = .next u) ∨
    ∃ name, i = .encFlightMode name ∧ (∀ x ∈ name, x ≤ 0x7F) ∧ 59 < name.length ∧
      exec i s = .refused .flightModeTooLong := by
  obtain ⟨c', hc⟩ := encode_of_decodeCall hd
  cases i with
  | rcChannelsPacked | linkStatistics | rxUnrecognised | battery | gps | attitude | flightMode => cases hc
  | encFlightMode name =>
    cases ha : allAscii name with
    | false => exact .inl ⟨_, exec_encFlightMode_raises s ha⟩
    | true =>
      obtain hl | hl := le_or_gt name.length 59
      · exact .inl ⟨_, exec_encFlightMode_begins s ha hl⟩
      · exact .inr ⟨name, rfl, (allAscii_iff name).1 ha, hl, exec_encFlightMode_long s ha hl⟩
  | poll | crc8 | getChannelPercent | isConnected | readState | encGps | encBattery | encAttitude =>
    exact .inl ⟨_, rfl⟩

/-- Settles O55: by the head of `env`; an event from outside always gives a next state, the block's own move
by `blockMove_total`, an invocation by what it decodes to. -/
theorem stepsAreTotal : Obligations.StepsAreTotal := by
  intro s hinv
  have hmove (e : List Event) : ∃ u, runMove (blockMove { s with env := e }) = .next u :=
    blockMove_total ((inv_congr rfl rfl rfl rfl rfl).1 hinv)
  cases he : s.env with
  | nil => exact .inl (by rw [step_env_nil s he]; exact hmove s.env)
  | cons e later =>
    cases e with
    | rxArrive b => exact .inl ⟨_, step_env_rxArrive s he⟩
    | timeAdvances ms => exact .inl ⟨_, step_env_timeAdvances s he⟩
    | samplesNow => exact .inl ⟨_, step_env_samplesNow s he⟩
    | blockMoves => exact .inl (by rw [step_env_blockMoves s he]; exact hmove later)
    | overlappingRead pick =>
      obtain ⟨u, hu⟩ := hmove later
      exact .inl ⟨_, by rw [step_env_overlappingRead s he, hu, overlap_next]⟩
    | invoke c =>
      cases hb : busy s with
      | true => exact .inl (by rw [step_env_invoke_busy s he hb]; exact hmove s.env)
      | false =>
        rw [step_env_invoke s he hb]
        cases hd : decodeCall c with
        | error err => exact .inr ⟨c, later, rfl, rfl, .inl ⟨err, hd, runMove_run_error (e := .call c) _ hd⟩⟩
        | ok i =>
          rw [runMove_run_ok _ (show decode (.call c) = .ok i from hd)]
          obtain hu | ⟨name, rfl, hascii, hlong, href⟩ := exec_invoked_total hd { s with env := later }
          · exact .inl hu
          · exact .inr ⟨c, later, rfl, rfl, .inr ⟨name, hd, hascii, hlong, href⟩⟩

end Sys2Proof
end

section
/-! The CRC8, 40_crc8.md: the table against the bit-serial form, and the laws R83, which rest on the inner step
being linear over xor and having no kernel. -/

namespace Sys2Proof

open Machine

/-! ## The inner step -/

theorem crcShift_xor (a b : Byte) : crcShift (a ^^^ b) = crcShift a ^^^ crcShift b := by
  simp only [crcShift, BitVec.getLsbD_xor, BitVec.shiftLeft_xor_distrib]
  have hcomm : a <<< 1 ^^^ b <<< 1 ^^^ Config.crcPoly = a <<< 1 ^^^ Config.crcPoly ^^^ b <<< 1 := by ac_rfl
  have hcancel : a <<< 1 ^^^ b <<< 1 = a <<< 1 ^^^ Config.crcPoly ^^^ (b <<< 1 ^^^ Config.crcPoly) := by
    rw [← BitVec.xor_assoc, ← hcomm, BitVec.xor_assoc, BitVec.xor_self, BitVec.xor_zero]
  cases a.getLsbD 7 <;> cases b.getLsbD 7
  · rfl
  · exact BitVec.xor_assoc ..
  · exact hcomm
  · exact hcancel

theorem crcShift8_xor (a b : Byte) : crcShift8 (a ^^^ b) = crcShift8 a ^^^ crcShift8 b := by
  simp only [crcShift8, crcShift_xor]

theorem crcShift_injective : Function.Injective crcShift := by
  have hker : ∀ c : Byte, crcShift c = 0 → c = 0 := by decide
  intro a b h
  exact BitVec.xor_eq_zero_iff.1 (hker _ (by rw [crcShift_xor, h, BitVec.xor_self]; rfl))

theorem crcShift8_injective : Function.Injective crcShift8 := by
  have h2 := crcShift_injective.comp crcShift_injective
  have h4 := h2.comp h2
  exact h4.comp h4

/-! ## The table -/

theorem crcTable_eq_map : crcTable = (List.range 256).map fun i => crcShift8 (BitVec.ofNat 8 i) := by
  decide +kernel

theorem crcEntry_eq_crcShift8 (i : Byte) : crcEntry i = crcShift8 i := by
  rw [crcEntry, crcTable_eq_map, List.getD_eq_getElem?_getD, List.getElem?_map, List.getElem?_range i.isLt]
  simp

theorem crcEntry_xor (a b : Byte) : crcEntry (a ^^^ b) = crcEntry a ^^^ crcEntry b := by
  simp only [crcEntry_eq_crcShift8, crcShift8_xor]

theorem crcEntry_injective : Function.Injective crcEntry :=
  fun a b h => crcShift8_injective (by simpa only [crcEntry_eq_crcShift8] using h)

theorem crcEntry_zero : crcEntry 0 = 0 := rfl

theorem crcEntry_eq_zero_iff (c : Byte) : crcEntry c = 0 ↔ c = 0 :=
  crcEntry_injective.eq_iff' crcEntry_zero

/-- Settles O7: both forms fold the same function of a byte. -/
theorem tableDrivenCrcIsTheBitSerialCrc : Obligations.TableDrivenCrcIsTheBitSerialCrc := by
  intro s
  simp only [crc8, crc8Serial, crcEntry_eq_crcShift8]

/-- Settles O8: the printed table is the list of the inner steps of 0 to 255. -/
theorem crcTableHoldsTheInnerSteps : Obligations.CrcTableHoldsTheInnerSteps :=
  ⟨by rw [crcTable_eq_map]; simp, fun i => ⟨crcEntry_eq_crcShift8 i, by simp [crc8]⟩⟩

/-! ## The laws -/

/-- The CRC of a byte sequence, continued from the CRC `c` of what stands before it. -/
def crcFrom (c : Byte) (s : List Byte) : Byte := s.foldl (fun c b => crcEntry (c ^^^ b)) c

theorem crc8_append_eq (s r : List Byte) : crc8 (s ++ r) = crcFrom (crc8 s) r := crc8_append s r

theorem crcFrom_cons (c b : Byte) (s : List Byte) :
    crcFrom c (b :: s) = crcFrom (crcEntry (c ^^^ b)) s := rfl

theorem crcFrom_injective (s : List Byte) : Function.Injective fun c => crcFrom c s := by
  induction s with
  | nil => exact Function.injective_id
  | cons b s ih => exact ih.comp (crcEntry_injective.comp (fun _ _ => (BitVec.xor_left_inj b).1))

theorem crcFrom_xor {a b : List Byte} (h : a.length = b.length) (x y : Byte) :
    crcFrom (x ^^^ y) (List.zipWith (fun x y => x ^^^ y) a b) = crcFrom x a ^^^ crcFrom y b := by
  induction a generalizing b x y with
  | nil =>
    obtain rfl := List.length_eq_zero_iff.1 h.symm
    rfl
  | cons p a ih =>
    cases b with
    | nil => cases h
    | cons q b =>
      have hpq : x ^^^ y ^^^ (p ^^^ q) = (x ^^^ p) ^^^ (y ^^^ q) := by
        ac_rfl
      simp only [List.zipWith_cons_cons, crcFrom_cons, hpq, crcEntry_xor]
      exact ih (by simpa using h) _ _

/-- A trailing byte leaves residue 0 exactly when it is the CRC of what stands before it. -/
theorem crc8_concat_eq_zero_iff (s : List Byte) (c : Byte) : crc8 (s ++ [c]) = 0 ↔ c = crc8 s := by
  rw [crc8_concat, crcEntry_eq_zero_iff]
  exact BitVec.xor_eq_zero_iff.trans eq_comm

theorem crc8_set_ne {s : List Byte} {k : Nat} {b : Byte} (hk : k < s.length) (hb : s[k]? ≠ some b) :
    crc8 (s.set k b) ≠ crc8 s := by
  intro h
  rw [List.set_eq_take_append_cons_drop, if_pos hk, crc8_append_eq] at h
  conv_rhs at h => rw [← List.take_append_drop k s, List.drop_eq_getElem_cons hk, crc8_append_eq]
  simp only [crcFrom_cons] at h
  have hbyte := (BitVec.xor_right_inj _).1 (crcEntry_injective (crcFrom_injective _ h))
  exact hb (by rw [List.getElem?_eq_getElem hk, hbyte])

/-- Settles O9: (a) and (b) by the fold, the rest by the lemmas above; for (g) the collision is the one law (e)
gives, `[x, CRC8([x])]` against two zero bytes. -/
theorem crcLaws : Obligations.CrcLaws := by
  refine ⟨rfl, fun s => rfl, rfl, Finite.injective_iff_bijective.1 crcEntry_injective,
    fun a b h => crcFrom_xor h 0 0, fun s => (crc8_concat_eq_zero_iff s _).2 rfl, fun s k b => crc8_set_ne,
    ⟨[0x00, 0x00], [0x01, 0xD5], rfl, by decide, by decide⟩, fun body => ⟨crc8 body, ?_, fun c => ?_⟩⟩
  · exact (crc8_concat_eq_zero_iff body _).2 rfl
  · exact (crc8_concat_eq_zero_iff body c).1

end Sys2Proof
end

section
/-! The received frames' instructions, step S6 of a POLL: 42_decoder.md R110 to R118. -/

namespace Sys2Proof

open Machine

/-- The state after DECODE of a frame that passed the CRC check. -/
theorem accept_eq_of_arm {t : Byte} {p : List Byte} {arm : LinkState → LinkState}
    (harm : ∀ (ls : LinkState) (now : Config.Time),
      { arm ls with lastPacketTime := now } = decodeFrame t p now ls)
    (s : State) :
    accept t p arm s = endPoll (.frame t p) { s with ls := decodeFrame t p (stampTime s) s.ls } := by
  rw [accept, harm]

/-- Settles O25: every received-frame instruction is `receive` with the arm of its type. -/
theorem receivedFramesAreCheckedInStepOrder : Obligations.ReceivedFramesAreCheckedInStepOrder := by
  intro s t n p crc
  obtain ⟨arm, hx, harm⟩ := exec_rxInstr s t n p crc
  rw [hx, receive, accept_eq_of_arm harm]
  simp only [lengthLegal_eq_false_iff]
  rfl

/-- Settles O16: the received frame's instruction, on a body of the announced length. -/
theorem stepS6ChecksTheCrcAndDecodes : Obligations.StepS6ChecksTheCrcAndDecodes := by
  intro s n t c p hp hn hd hw he
  obtain ⟨arm, hx, harm⟩ := exec_rxInstr s t n p c
  have hdec : decode (.rxFrame (Config.syncByte :: n :: (t :: p ++ [c]))) = .ok (rxInstr t n p c) :=
    decode_rxFrame_rxBytes hw t c
  rw [step_env_nil s he, blockMove_s6 s hp hn hd, runMove_run_ok s hdec, hx]
  refine ⟨fun hc => ?_, fun hc => ?_⟩
  · rw [receive_badCrc s hw hc]
    rfl
  · rw [receive_accept s hw hc, accept_eq_of_arm harm]
    rfl

theorem exec_rcChannelsPacked_accepts {n : Byte} {p : List Byte} {crc : Byte} (s : State)
    (hw : rxWellFormed n p = true) (hc : crc8 (0x16 :: p) = crc) :
    exec (.rcChannelsPacked n p crc) s = .next (accept 0x16 p (rcArm p) s) :=
  congrArg Host.Outcome.next (receive_accept s hw hc)

theorem exec_linkStatistics_accepts {n : Byte} {p : List Byte} {crc : Byte} (s : State)
    (hw : rxWellFormed n p = true) (hc : crc8 (0x14 :: p) = crc) :
    exec (.linkStatistics n p crc) s = .next (accept 0x14 p (linkStatsArm p) s) :=
  congrArg Host.Outcome.next (receive_accept s hw hc)

/-- Settles O29: the arm writes channels for 22 payload bytes only. -/
theorem rcFrameOfAnotherLengthWritesNoChannel : Obligations.RcFrameOfAnotherLengthWritesNoChannel := by
  intro s n p crc hw hp hc
  have harm : rcArm p s.ls = s.ls := if_neg hp
  rw [exec_rcChannelsPacked_accepts s hw hc, accept, harm]
  rfl

/-- Settles O31: the arm writes its two fields for 6 payload bytes or more only. -/
theorem shortLinkStatisticsWritesNeitherField : Obligations.ShortLinkStatisticsWritesNeitherField := by
  intro s n p crc hw hp hc
  have harm : linkStatsArm p s.ls = s.ls := if_neg (Nat.not_le.mpr hp)
  rw [exec_linkStatistics_accepts s hw hc, accept, harm]
  rfl

/-- Settles O32: the arm of the other types writes nothing. -/
theorem unrecognisedFrameOnlyStampsTheTime : Obligations.UnrecognisedFrameOnlyStampsTheTime := by
  intro s t n p crc _ _ hw hc
  rw [exec_rxUnrecognised, receive_accept s hw hc]
  rfl

/-- An unsigned byte fits 9 bits with room for its sign. -/
theorem toInt_neg_zeroExtend (b : Byte) : (0 - b.zeroExtend 9 : BitVec 9).toInt = -(b.toNat : Int) := by
  have hb := b.isLt
  have hext : (b.zeroExtend 9).toInt = b.toNat := by
    have htoNat : (b.zeroExtend 9).toNat = b.toNat := by simp; omega
    rw [BitVec.toInt_eq_toNat_of_lt (by omega), htoNat]
  rw [show (0 - b.zeroExtend 9 : BitVec 9) = -b.zeroExtend 9 from BitVec.zero_sub _, BitVec.toInt_neg, hext]
  exact Int.bmod_eq_of_le (by omega) (by omega)

/-- Settles O30: `payload[5]` there means at least 6 payload bytes, so the arm writes both fields. -/
theorem linkStatisticsFrameWritesRssiAndQuality : Obligations.LinkStatisticsFrameWritesRssiAndQuality := by
  intro s n p crc rssi quality hw h4 h5 hc
  obtain ⟨hlen, -⟩ := List.getElem?_eq_some_iff.1 h5
  have hmin : Config.linkStatsPayloadMin ≤ p.length := hlen
  have harm : linkStatsArm p s.ls =
      { s.ls with rssiDbm := 0 - rssi.zeroExtend 9, linkQuality := quality } := by
    rw [linkStatsArm, if_pos hmin, List.getD_eq_getElem?_getD, List.getD_eq_getElem?_getD, h4, h5]
    rfl
  refine ⟨_, toInt_neg_zeroExtend rssi, ?_⟩
  rw [exec_linkStatistics_accepts s hw hc, accept, harm]
  rfl

end Sys2Proof
end

section
/-! The RC channel bit-unpacker, 42_decoder.md R111: its value form, its byte-wise form, and that it is a
bijection. -/

namespace Sys2Proof

open Machine

theorem leValue_eq_sum (p : List Byte) :
    leValue p = ((List.range p.length).map fun k => (p.getD k 0).toNat * 2 ^ (8 * k)).sum := by
  induction p with
  | nil => rfl
  | cons b p ih =>
    have hshift (k : Nat) : ((b :: p).getD (k + 1) 0).toNat * 2 ^ (8 * (k + 1)) =
        256 * ((p.getD k 0).toNat * 2 ^ (8 * k)) := by
      rw [List.getD_cons_succ, show 8 * (k + 1) = 8 * k + 8 by ring, pow_add]
      ring
    rw [List.length_cons, List.range_succ_eq_map, List.map_cons, List.map_map, List.sum_cons, leValue, ih,
      ← List.sum_map_mul_left]
    simp only [Function.comp_def, Nat.succ_eq_add_one, hshift]
    simp

/-- Settles O26: the sixteen channels are those of `unpackChannels`, the value they are cut from is the
little-endian one. -/
theorem rcFrameWritesTheSixteenChannels : Obligations.RcFrameWritesTheSixteenChannels := by
  intro s n p crc hw hp hc
  refine ⟨unpackChannels p, fun i => ?_, ?_⟩
  · rw [unpackChannels_getElem, channelAt_toNat, leValue_eq_sum, hp]
  · have harm : rcArm p s.ls = { s.ls with channels := unpackChannels p } := if_pos hp
    rw [exec_rcChannelsPacked_accepts s hw hc, accept, harm]
    rfl

/-! ## The byte-wise form -/

/-- Eleven bits from bit `k` of a little-endian value whose first three bytes are `x`, `y`, `z`; the third
matters only where the first two hold fewer than eleven bits from bit `k` on. -/
theorem elevenBits_of_threeBytes {x y z rest k : Nat} (hx : x < 256) (hy : y < 256) (hk : k < 8) :
    (x + 256 * (y + 256 * (z + 256 * rest))) / 2 ^ k % 2 ^ 11 =
      (x >>> k ||| y <<< (8 - k) ||| if 6 ≤ k then z <<< (16 - k) else 0) &&& 0x7FF := by
  have hlow : x >>> k < 2 ^ (8 - k) := by
    rw [Nat.shiftRight_eq_div_pow]
    exact Nat.div_lt_of_lt_mul (by rw [← pow_add, show k + (8 - k) = 8 by omega]; exact hx)
  have hxy : x >>> k ||| y <<< (8 - k) = y <<< (8 - k) + x >>> k := by
    rw [Nat.lor_comm, Nat.shiftLeft_add_eq_or_of_lt hlow]
  have hmid : y <<< (8 - k) + x >>> k < 2 ^ (16 - k) := by
    have hsplit : 2 ^ (16 - k) = 256 * 2 ^ (8 - k) := by
      rw [show 16 - k = 8 + (8 - k) by omega, pow_add]
      rfl
    have hmul : (y + 1) * 2 ^ (8 - k) ≤ 256 * 2 ^ (8 - k) := Nat.mul_le_mul_right _ hy
    rw [Nat.shiftLeft_eq, hsplit]
    linarith
  rw [hxy, Nat.and_two_pow_sub_one_eq_mod _ 11]
  split
  · rw [Nat.lor_comm, ← Nat.shiftLeft_add_eq_or_of_lt hmid]
    simp only [Nat.shiftLeft_eq, Nat.shiftRight_eq_div_pow]
    obtain rfl | rfl : k = 6 ∨ k = 7 := by omega
    all_goals omega
  · simp only [Nat.or_zero, Nat.shiftLeft_eq, Nat.shiftRight_eq_div_pow]
    interval_cases k <;> omega

/-- Settles O27: the value from byte `11 i / 8` on, shifted by the bits that are left of `11 i`. -/
theorem channelsInTheByteWiseForm : Obligations.ChannelsInTheByteWiseForm := by
  intro p i _
  have hpow : 2 ^ (11 * i.val) = 256 ^ (11 * i.val / 8) * 2 ^ (11 * i.val % 8) := by
    rw [show 256 = 2 ^ 8 from rfl, ← pow_mul, ← pow_add, Nat.div_add_mod]
  have hbytes (q : List Byte) : leValue q = (q.getD 0 0).toNat + 256 * ((q.getD 1 0).toNat +
      256 * ((q.getD 2 0).toNat + 256 * leValue (q.drop 3))) := by
    rw [leValue_head q, leValue_head (q.drop 1), leValue_head ((q.drop 1).drop 1)]
    simp [List.getD_eq_getElem?_getD]
  rw [unpackChannels_getElem, channelAt_toNat, hpow, ← Nat.div_div_eq_div_mul, leValue_div, hbytes]
  simp only [List.getD_eq_getElem?_getD, List.getElem?_drop]
  exact elevenBits_of_threeBytes (BitVec.isLt _) (BitVec.isLt _) (Nat.mod_lt _ (by decide))

/-! ## The bijection -/

/-- The `n` bytes of a number, the least significant first. -/
def leBytes : Nat → Nat → List Byte
  | 0, _ => []
  | n + 1, v => BitVec.ofNat 8 v :: leBytes n (v / 256)

@[simp] theorem leBytes_length (n v : Nat) : (leBytes n v).length = n := by
  induction n generalizing v with
  | zero => rfl
  | succ n ih => simp [leBytes, ih]

theorem leValue_leBytes {n v : Nat} (h : v < 256 ^ n) : leValue (leBytes n v) = v := by
  induction n generalizing v with
  | zero => simp at h; simp [leBytes, leValue, h]
  | succ n ih =>
    rw [leBytes, leValue, ih (Nat.div_lt_of_lt_mul (by rwa [pow_succ'] at h)), BitVec.toNat_ofNat]
    omega

theorem leBytes_leValue (p : List Byte) : leBytes p.length (leValue p) = p := by
  induction p with
  | nil => rfl
  | cons b p ih =>
    have hb := b.isLt
    have hdiv : (b.toNat + 256 * leValue p) / 256 = leValue p := by omega
    rw [List.length_cons, leBytes, leValue, hdiv, ih]
    congr 1
    apply BitVec.eq_of_toNat_eq
    rw [BitVec.toNat_ofNat]
    omega

/-- The value whose base-2048 digits, the least significant first, are the sixteen channels. -/
def channelsValue (v : Vector (BitVec 11) 16) : Nat := Nat.ofDigits (2 ^ 11) (v.toList.map BitVec.toNat)

theorem channelsValue_lt (v : Vector (BitVec 11) 16) : channelsValue v < 256 ^ 22 := by
  have h := Nat.ofDigits_lt_base_pow_length (b := 2 ^ 11) (l := v.toList.map BitVec.toNat) (by decide)
    (by simp only [List.mem_map]; rintro _ ⟨x, -, rfl⟩; exact x.isLt)
  simpa [channelsValue] using h

theorem channelsValue_digit (v : Vector (BitVec 11) 16) (i : Fin 16) :
    channelsValue v / 2 ^ (11 * i.val) % 2 ^ 11 = v[i].toNat := by
  have hlt : ∀ d ∈ v.toList.map BitVec.toNat, d < 2 ^ 11 := by
    simp only [List.mem_map]
    rintro _ ⟨x, -, rfl⟩
    exact x.isLt
  rw [pow_mul, channelsValue, Nat.ofDigits_div_pow_eq_ofDigits_drop _ (by decide) _ hlt,
    List.drop_eq_getElem_cons (by simp), Nat.ofDigits_cons, Nat.add_mul_mod_self_left]
  simpa using Nat.mod_eq_of_lt v[i].isLt

/-- A value below `2 ^ 176` is that of its sixteen digits. -/
theorem eq_of_digits_eq {a b : Nat} (ha : a < 256 ^ 22) (hb : b < 256 ^ 22)
    (h : ∀ i : Fin 16, a / 2 ^ (11 * i.val) % 2 ^ 11 = b / 2 ^ (11 * i.val) % 2 ^ 11) : a = b := by
  have h256 : 256 ^ 22 = 2 ^ 176 := by decide
  apply Nat.eq_of_testBit_eq
  intro j
  obtain hj | hj := lt_or_ge j 176
  · have hd := congrArg (fun x => x.testBit (j % 11)) (h ⟨j / 11, by omega⟩)
    simp only [Nat.testBit_mod_two_pow, Nat.testBit_div_two_pow, Nat.mod_lt j (show 0 < 11 by decide),
      decide_true, Bool.true_and] at hd
    rwa [Nat.mod_add_div] at hd
  · have hpow : 256 ^ 22 ≤ 2 ^ j := h256.trans_le (Nat.pow_le_pow_right (by decide) hj)
    rw [Nat.testBit_lt_two_pow (ha.trans_le hpow), Nat.testBit_lt_two_pow (hb.trans_le hpow)]

theorem unpackChannels_eq_iff (p : List Byte) (v : Vector (BitVec 11) 16) :
    unpackChannels p = v ↔ ∀ i : Fin 16, leValue p / 2 ^ (11 * i.val) % 2 ^ 11 = v[i].toNat := by
  simp only [← channelAt_toNat, ← unpackChannels_getElem]
  refine ⟨fun h i => by rw [h], fun h => Vector.ext fun i hi => BitVec.eq_of_toNat_eq (h ⟨i, hi⟩)⟩

/-- Settles O28: 22 bytes and sixteen channels are both the digits of one number below `2 ^ 176`. -/
theorem unpackIsABijection : Obligations.UnpackIsABijection := by
  intro v
  refine ⟨leBytes 22 (channelsValue v), ⟨leBytes_length .., ?_⟩, fun p ⟨hlen, hp⟩ => ?_⟩
  · rw [unpackChannels_eq_iff, leValue_leBytes (channelsValue_lt v)]
    exact channelsValue_digit v
  · have hval : leValue p = channelsValue v := by
      refine eq_of_digits_eq (hlen ▸ leValue_lt p) (channelsValue_lt v) fun i => ?_
      rw [(unpackChannels_eq_iff p v).1 hp i, channelsValue_digit]
    rw [← hval, ← hlen, leBytes_leValue]

end Sys2Proof
end

section
/-! `PollFn` by what stands at the head of the queue, 41_synchronizer.md R97, R98, R100, R101. -/

namespace Sys2Proof

open Machine

theorem pollFn_badSync {b n : Byte} (rest : List Byte) (hb : b ≠ Config.syncByte) :
    pollFn (b :: n :: rest) = ([], .noFrame .badSync) := by
  simp [pollFn, hb]

/-- Behind a sync byte and a length byte: the checks of S4 to S6. -/
theorem pollFn_sync (n : Byte) (rest : List Byte) : pollFn (Config.syncByte :: n :: rest) =
    if lengthLegal n = false then (rest, .noFrame .badLength)
    else if rest.length < n.toNat then ([], .noFrame .truncated)
    else if crc8 (rest.take (n.toNat - 1)) ≠ (n :: rest).getD n.toNat 0 then
      (rest.drop n.toNat, .noFrame .badCrc)
    else (rest.drop n.toNat, .frame (rest.getD 0 0) ((rest.drop 1).take (n.toNat - 2))) := by
  have hlen : ¬(Config.syncByte :: n :: rest).length < 2 := by simp
  have hsync : ¬(Config.syncByte :: n :: rest).getD 0 0 ≠ Config.syncByte := not_not_intro rfl
  rw [pollFn, if_neg hlen, if_neg hsync]
  simp only [lengthLegal_eq_false_iff]
  rfl

theorem pollFn_badLength {n : Byte} (rest : List Byte) (hn : lengthLegal n = false) :
    pollFn (Config.syncByte :: n :: rest) = (rest, .noFrame .badLength) := by
  rw [pollFn_sync, if_pos hn]

theorem pollFn_truncated {n : Byte} {rest : List Byte} (hn : lengthLegal n = true)
    (hshort : rest.length < n.toNat) :
    pollFn (Config.syncByte :: n :: rest) = ([], .noFrame .truncated) := by
  rw [pollFn_sync, if_neg (by simp [hn]), if_pos hshort]

/-- A whole frame is consumed to its last byte, and its CRC decides the outcome. -/
theorem pollFn_whole {n : Byte} {p : List Byte} (hw : rxWellFormed n p = true) (t c : Byte) (behind : List Byte) :
    pollFn (rxBytes t n p c ++ behind) =
      (behind, if crc8 (t :: p) = c then .frame t p else .noFrame .badCrc) := by
  have hlen : n.toNat = p.length + 2 := ((rxWellFormed_iff n p).1 hw).2.symm
  have hlegal : lengthLegal n = true := lengthLegal_of_rxWellFormed hw
  have hbytes : rxBytes t n p c ++ behind = Config.syncByte :: n :: (t :: p ++ c :: behind) := by simp [rxBytes]
  have htake : (t :: p ++ c :: behind).take (n.toNat - 1) = t :: p := by simp [hlen]
  have hdrop : (t :: p ++ c :: behind).drop n.toNat = behind := by simp [hlen, List.drop_append]
  have hcrc : (n :: (t :: p ++ c :: behind)).getD n.toNat 0 = c := by simp [hlen]
  have hpayload : ((t :: p ++ c :: behind).drop 1).take (n.toNat - 2) = p := by simp [hlen]
  have hwhole : ¬(t :: p ++ c :: behind).length < n.toNat := by simp; omega
  rw [hbytes, pollFn_sync, if_neg (by simp [hlegal]), if_neg hwhole, htake, hdrop, hcrc, hpayload]
  by_cases hc : crc8 (t :: p) = c <;> simp [hc]

/-- All that can stand at the head of a queue when it is polled. -/
theorem queue_cases (q : List Byte) :
    q.length < 2 ∨ (∃ b n rest, q = b :: n :: rest ∧ b ≠ Config.syncByte) ∨
    (∃ n rest, q = Config.syncByte :: n :: rest ∧ lengthLegal n = false) ∨
    (∃ n rest, q = Config.syncByte :: n :: rest ∧ lengthLegal n = true ∧ rest.length < n.toNat) ∨
    ∃ t n p c behind, q = rxBytes t n p c ++ behind ∧ rxWellFormed n p = true := by
  obtain _ | ⟨b, _ | ⟨n, rest⟩⟩ := q
  · simp
  · simp
  refine .inr ?_
  by_cases hb : b = Config.syncByte
  · subst hb
    refine .inr ?_
    cases hn : lengthLegal n with
    | false => exact .inl ⟨n, rest, rfl, hn⟩
    | true =>
      obtain hlt | hle := lt_or_ge rest.length n.toNat
      · exact .inr (.inl ⟨n, rest, rfl, hn, hlt⟩)
      · obtain ⟨t, p, c, behind, rfl, hw⟩ := body_of_legal hn hle
        exact .inr (.inr ⟨t, n, p, c, behind, by simp [rxBytes], hw⟩)
  · exact .inl ⟨b, n, rest, rfl, hb⟩

/-- Settles O18: a POLL ends in one way for each of the heads a queue can have. -/
theorem bytesConsumedByEachOutcome : Obligations.BytesConsumedByEachOutcome := by
  intro q
  obtain hq | ⟨b, n, rest, rfl, hb⟩ | ⟨n, rest, rfl, hn⟩ | ⟨n, rest, rfl, hn, hshort⟩ |
    ⟨t, n, p, c, behind, rfl, hw⟩ := queue_cases q
  · simp [pollFn_of_length_lt_two hq]
  · simp [pollFn_badSync rest hb]
  · simp [pollFn_badLength rest hn]
  · simpa [pollFn_truncated hn hshort] using hshort
  · have hlen := ((rxWellFormed_iff n p).1 hw).2
    have hsize : (rxBytes t n p c).length = n.toNat + 2 := by rw [rxBytes_length]; omega
    have hn : (rxBytes t n p c ++ behind).getD 1 0 = n := rfl
    have hdrop : (rxBytes t n p c ++ behind).drop (n.toNat + 2) = behind := by rw [← hsize, List.drop_left]
    rw [pollFn_whole hw, hn, hdrop, List.length_append, hsize]
    split <;> simp [Nat.add_comm]

/-- Settles O20: the CRC byte BUILD appends is the one the synchronizer computes. -/
theorem builtFramesAreAccepted : Obligations.BuiltFramesAreAccepted := by
  intro t p rest hp
  rw [frameOf_eq_rxBytes, pollFn_whole (rxWellFormed_lengthByte hp), if_pos rfl]

/-- A received frame's bytes behind the length byte, taken together, have residue 0 exactly when its CRC
matches (40_crc8.md R83 (e)). -/
theorem crc8_body_eq_zero_iff (t : Byte) (p : List Byte) (c : Byte) :
    crc8 (t :: p ++ [c]) = 0 ↔ crc8 (t :: p) = c := by
  rw [crc8_concat_eq_zero_iff, eq_comm]

/-- Settles O21: the bytes of a built frame behind the length byte have residue 0, and changing one of them
changes the residue; the frame keeps its length byte, so it is consumed whole. -/
theorem oneCorruptedByteIsRejected : Obligations.OneCorruptedByteIsRejected := by
  intro t p rest k b hp hk hb
  have hw := rxWellFormed_lengthByte hp
  have hlegal := lengthLegal_of_rxWellFormed hw
  have hset : (frameOf t p).set (k + 2) b =
      Config.syncByte :: BitVec.ofNat 8 (p.length + 2) :: (t :: p ++ [crc8 (t :: p)]).set k b := rfl
  have hchanged : crc8 ((t :: p ++ [crc8 (t :: p)]).set k b) ≠ 0 := by
    rw [← (crc8_body_eq_zero_iff t p _).2 rfl]
    exact crc8_set_ne (by simp; omega) hb
  obtain ⟨t', p', c', hbody, hw'⟩ := body_of_legal_exact (d := (t :: p ++ [crc8 (t :: p)]).set k b) hlegal
    (by rw [toNat_lengthByte hp]; simp)
  rw [hbody] at hset hchanged
  have hpoll := pollFn_whole hw' t' c' rest
  rw [if_neg (mt (crc8_body_eq_zero_iff t' p' c').2 hchanged)] at hpoll
  rw [hset]
  exact hpoll

/-- A front of at least two bytes of a built frame holds its length byte, which announces the rest of it. -/
theorem front_of_frameOf {t : Byte} {p front back : List Byte} (hp : p.length ≤ 60)
    (hframe : frameOf t p = front ++ back) (hfront : 2 ≤ front.length) :
    ∃ n rest, front = Config.syncByte :: n :: rest ∧ lengthLegal n = true ∧
      n.toNat = (rest ++ back).length := by
  obtain _ | ⟨b, _ | ⟨n, rest⟩⟩ := front
  · simp at hfront
  · simp at hfront
  have hw := rxWellFormed_lengthByte hp
  rw [frameOf_eq_rxBytes] at hframe
  have hsize := congrArg List.length hframe
  rw [rxBytes_length] at hsize
  simp only [rxBytes, List.cons_append, List.nil_append, List.cons.injEq, List.length_cons] at hframe hsize
  obtain ⟨rfl, rfl, -⟩ := hframe
  refine ⟨_, rest, rfl, lengthLegal_of_rxWellFormed hw, ?_⟩
  rw [toNat_lengthByte hp]
  omega

/-- Settles O22: the length byte in the front announces more bytes than are there, and the tail does not begin
with the sync byte. -/
theorem chunkedFrameIsLostWithWhatFollows : Obligations.ChunkedFrameIsLostWithWhatFollows := by
  intro t p front back behind hp hframe hfront hback
  refine ⟨?_, fun hhead hlen => ?_⟩
  · obtain ⟨n, rest, rfl, hn, hlen⟩ := front_of_frameOf hp hframe hfront
    have hpos := List.length_pos_iff.2 hback
    rw [List.length_append] at hlen
    exact pollFn_truncated hn (by omega)
  · obtain _ | ⟨b, back⟩ := back
    · exact absurd rfl hback
    cases hrest : back ++ behind with
    | nil => simp [hrest] at hlen
    | cons n rest =>
      rw [List.cons_append, hrest]
      exact pollFn_badSync rest fun h => hhead (by rw [h]; rfl)

end Sys2Proof
end

section
/-! Whole POLLs, as runs of the machine: without arrivals (41_synchronizer.md R97), and with arrivals between
the moves (20_memory.md R41). -/

namespace Sys2Proof

open Machine

/-! ## The moves of a POLL -/

/-- Settles O12: an empty read is no sync byte, and the flush finds nothing to remove. -/
theorem emptyReadAtS2IsBadSync : Obligations.EmptyReadAtS2IsBadSync := by
  intro s hp he hq
  rw [step_of_blockMove_done he (blockMove_s2 s hp), moveS2_other (by simp [hq])]
  simp [reject, endPoll, rxFlush, rxDropped, hq]

theorem step_invoke_poll {s : State} {later : List Event} (hb : busy s = false)
    (he : s.env = .invoke ⟨0x80, []⟩ :: later) : step s = .next (startPoll { s with env := later }) := by
  rw [step_env_invoke s he hb]
  rfl

/-- The POLL of `s` after `j` of its moves, none of them a reject, when it has found `0xC8`, the length byte `n`
and `rest` so far. -/
def pollAt (s : State) (n : Byte) (rest : List Byte) : Nat → State
  | 0 => { startPoll s with rxq := Config.syncByte :: n :: rest }
  | 1 => { startPoll s with phase := .s2, rxq := Config.syncByte :: n :: rest }
  | 2 => { startPoll s with phase := .s3, rxq := n :: rest }
  | 3 => { startPoll s with phase := .s4, len := some n, rxq := rest }
  | _ => { startPoll s with phase := .s5, len := some n, rxq := rest }

theorem pollAt_zero {s : State} {n : Byte} {rest : List Byte} (hq : s.rxq = Config.syncByte :: n :: rest) :
    pollAt s n rest 0 = startPoll s := by
  rw [pollAt, ← hq]
  rfl

theorem pollAt_with_env (s : State) (e : List Event) (n : Byte) (rest : List Byte) (j : Nat) :
    { pollAt s n rest j with env := e } = pollAt { s with env := e } n rest j := by
  match j with
  | 0 | 1 | 2 | 3 | _ + 4 => rfl

@[simp] theorem pollAt_env (s : State) (n : Byte) (rest : List Byte) (j : Nat) :
    (pollAt s n rest j).env = s.env := by
  match j with
  | 0 | 1 | 2 | 3 | _ + 4 => rfl

theorem rxArrive_pollAt (b : Byte) (s : State) (n : Byte) (rest : List Byte) (j : Nat) :
    rxArrive b (pollAt s n rest j) = pollAt s n (rest ++ [b]) j := by
  match j with
  | 0 | 1 | 2 | 3 | _ + 4 => rfl

/-- S1 to S4 each go on: two bytes are there, the first is `0xC8`, and S4 finds a legal length byte. -/
theorem blockMove_pollAt (s : State) {n : Byte} (rest : List Byte) {j : Nat} (hj : j < 4)
    (hn : j = 3 → lengthLegal n = true) :
    runMove (blockMove (pollAt s n rest j)) = .next (pollAt s n rest (j + 1)) := by
  match j with
  | 0 =>
    rw [blockMove_s1 _ rfl, runMove_done, moveS1_filled (by simp [pollAt])]
    rfl
  | 1 =>
    rw [blockMove_s2 _ rfl, runMove_done, moveS2_sync rfl]
    rfl
  | 2 =>
    rw [blockMove_s3 _ rfl, runMove_done, moveS3_cons rfl]
    rfl
  | 3 =>
    rw [blockMove_s4 _ rfl, runMove_done, moveS4_legal rfl (hn rfl)]
    rfl

theorem blockMove_pollAt_illegal (s : State) {n : Byte} (rest : List Byte) (hn : lengthLegal n = false) :
    runMove (blockMove (pollAt s n rest 3)) = .next (reject .badLength { s with rxq := rest }) := by
  rw [blockMove_s4 _ rfl, runMove_done, moveS4_illegal rfl hn]
  rfl

theorem blockMove_pollAt_short (s : State) {n : Byte} {rest : List Byte} (hlen : rest.length < n.toNat) :
    runMove (blockMove (pollAt s n rest 4)) = .next (reject .truncated { s with rxq := [] }) := by
  have hempty : rest.drop n.toNat = [] := List.drop_eq_nil_of_le hlen.le
  rw [blockMove_s5 _ rfl, runMove_done, moveS5_short rfl hlen]
  simp [reject, endPoll, rxDropped, pollAt, startPoll, hempty]

/-- The POLL at S6: it has read the frame, with `behind` left in the queue. -/
def pollAtS6 (s : State) (t n : Byte) (p : List Byte) (c : Byte) (behind : List Byte) : State :=
  { startPoll s with phase := .s6, len := some n, d := some (t :: p ++ [c]), rxq := behind }

theorem blockMove_pollAt_whole (s : State) {n : Byte} {p : List Byte} (hw : rxWellFormed n p = true) (t c : Byte)
    (behind : List Byte) :
    runMove (blockMove (pollAt s n (t :: p ++ c :: behind) 4)) = .next (pollAtS6 s t n p c behind) := by
  have hlen : n.toNat = (t :: p ++ [c]).length := by simp [← ((rxWellFormed_iff n p).1 hw).2]
  have hsplit : t :: p ++ c :: behind = (t :: p ++ [c]) ++ behind := by simp
  rw [blockMove_s5 _ rfl, runMove_done,
    moveS5_whole (s := pollAt s n (t :: p ++ c :: behind) 4) rfl (by simp [pollAt, hlen])]
  simp only [pollAtS6, rxDropped, rxTaken, pollAt, startPoll, hsplit, hlen, List.take_left, List.drop_left]

/-- The end of the POLL of `s` with queue and outcome `o`: DECODE runs exactly on a frame. -/
def pollEnd (s : State) (o : List Byte × Result) : State :=
  endPoll o.2 { s with
    rxq := o.1
    ls := match o.2 with
      | .frame t p => decodeFrame t p s.now s.ls
      | _ => s.ls }

theorem blockMove_pollAtS6 (s : State) {n : Byte} {p : List Byte} (hw : rxWellFormed n p = true) (t c : Byte)
    (behind : List Byte) : runMove (blockMove (pollAtS6 s t n p c behind)) =
      .next (pollEnd s (pollFn (rxBytes t n p c ++ behind))) := by
  have hdec : decode (.rxFrame (Config.syncByte :: n :: (t :: p ++ [c]))) = .ok (rxInstr t n p c) :=
    decode_rxFrame_rxBytes hw t c
  obtain ⟨arm, hx, harm⟩ := exec_rxInstr (pollAtS6 s t n p c behind) t n p c
  rw [blockMove_s6 _ rfl rfl rfl, runMove_run_ok _ hdec, hx, pollFn_whole hw]
  by_cases hc : crc8 (t :: p) = c
  · rw [receive_accept _ hw hc, accept_eq_of_arm harm, if_pos hc]
    rfl
  · rw [receive_badCrc _ hw hc, if_neg hc]
    rfl

/-! ## A POLL during which nothing arrives -/

theorem steps_move {s u : State} (hm : runMove (blockMove s) = .next u) (he : s.env = []) (k : Nat) :
    steps (k + 1) s = steps k u := by
  rw [steps_succ]
  rw [step_env_nil s he, hm]

theorem steps_move_then_idle {s u : State} (hm : runMove (blockMove s) = .next u) (he : s.env = [])
    (hp : u.phase = .idle) (hb : u.building = none) (hu : u.env = []) (k : Nat) :
    steps (k + 1) s = .next u := by
  rw [steps_move hm he, steps_idle k hp hb hu]

/-- The first moves of a POLL, when nothing arrives and none of them rejects. -/
theorem steps_pollAt {s : State} (he : s.env = []) {n : Byte} (rest : List Byte) {j : Nat} (hj : j ≤ 4)
    (hn : j = 4 → lengthLegal n = true) (k : Nat) :
    steps (j + k) (pollAt s n rest 0) = steps k (pollAt s n rest j) := by
  induction j generalizing k with
  | zero => rw [Nat.zero_add]
  | succ j ih =>
    have hmove := blockMove_pollAt s rest (n := n) (j := j) (by omega) (fun hj => hn (by omega))
    rw [show j + 1 + k = j + (k + 1) by omega, ih (by omega) (by omega), steps_move hmove (by simpa using he)]

/-- Six moves from S1 end the POLL as `pollFn` says. -/
theorem steps_startPoll {s : State} (hb : s.building = none) (he : s.env = []) :
    steps 6 (startPoll s) = .next (pollEnd s (pollFn s.rxq)) := by
  obtain hq | ⟨b, n, rest, hq, hsync⟩ | ⟨n, rest, hq, hn⟩ | ⟨n, rest, hq, hn, hshort⟩ |
    ⟨t, n, p, c, behind, hq, hw⟩ := queue_cases s.rxq
  · have h1 : runMove (blockMove (startPoll s)) = .next (reject .noData s) := by
      rw [blockMove_s1 _ rfl, runMove_done, moveS1_short (s := startPoll s) hq]
      rfl
    rw [pollFn_of_length_lt_two hq, steps_move_then_idle h1 he rfl hb he 5]
    rfl
  · have h1 : runMove (blockMove (startPoll s)) = .next { startPoll s with phase := .s2 } := by
      rw [blockMove_s1 _ rfl, runMove_done, moveS1_filled (by simp [hq])]
    have h2 : runMove (blockMove { startPoll s with phase := .s2 }) =
        .next (reject .badSync { s with rxq := [] }) := by
      rw [blockMove_s2 _ rfl, runMove_done, moveS2_other (by simpa [hq] using hsync)]
      rfl
    rw [hq, pollFn_badSync rest hsync, steps_move h1 he, steps_move_then_idle h2 he rfl hb he 4]
    rfl
  · rw [← pollAt_zero hq, hq, pollFn_badLength rest hn, steps_pollAt he rest (j := 3) (by omega) (by omega) 3,
      steps_move_then_idle (blockMove_pollAt_illegal s rest hn) he rfl hb he 2]
    rfl
  · rw [← pollAt_zero hq, hq, pollFn_truncated hn hshort,
      steps_pollAt he rest (j := 4) (by omega) (fun _ => hn) 2,
      steps_move_then_idle (blockMove_pollAt_short s hshort) he rfl hb he 1]
    rfl
  · have hq' : s.rxq = Config.syncByte :: n :: (t :: p ++ c :: behind) := by simp [hq, rxBytes]
    have hn : lengthLegal n = true := lengthLegal_of_rxWellFormed hw
    rw [← pollAt_zero hq', hq, steps_pollAt he _ (j := 4) (by omega) (fun _ => hn) 2,
      steps_move (blockMove_pollAt_whole s hw t c behind) he,
      steps_move_then_idle (blockMove_pollAtS6 s hw t c behind) he rfl hb he 0]

/-- Settles O17: POLL begins at S1, and `pollEnd` is the state its six moves end in. -/
theorem pollIsPollFnWhenNothingArrives : Obligations.PollIsPollFnWhenNothingArrives :=
  fun s hb he => ⟨rfl, steps_startPoll ((busy_eq_false_iff s).1 hb).2 he⟩

/-- While an operation is in progress, invocations wait and the block moves. -/
theorem step_of_invocations {s : State} {c : Call} {k : Nat} (hb : busy s = true)
    (he : s.env = List.replicate k (.invoke c)) : step s = runMove (blockMove s) := by
  cases k with
  | zero => exact step_env_nil s he
  | succ k => exact step_env_invoke_busy s he hb

/-- Settles O19, by induction on the number of POLLs: each is two steps, its start and the reject at S1. -/
theorem pollingAnEmptyQueueChangesNothing : Obligations.PollingAnEmptyQueueChangesNothing := by
  intro k
  induction k with
  | zero => exact fun s hb _ he => ⟨s, rfl, hb, he, rfl, rfl, rfl, rfl, nofun⟩
  | succ k ih =>
    intro s hb hq he
    have hreject : step (startPoll { s with env := List.replicate k (.invoke ⟨0x80, []⟩) }) =
        .next (reject .noData { s with env := List.replicate k (.invoke ⟨0x80, []⟩) }) := by
      rw [step_of_invocations rfl rfl, blockMove_s1 _ rfl, runMove_done, moveS1_short (by simpa using hq)]
      rfl
    have hidle := (busy_eq_false_iff s).1 hb
    obtain ⟨u, hu, hbu, heu, hls, hrxq, htx, hnow, hres⟩ :=
      ih (reject .noData { s with env := List.replicate k (.invoke ⟨0x80, []⟩) })
        ((busy_eq_false_iff _).2 ⟨rfl, hidle.2⟩) hq rfl
    refine ⟨u, ?_, hbu, heu, hls, hrxq, htx, hnow, fun _ => ?_⟩
    · rw [show 2 * (k + 1) = 2 * k + 1 + 1 by ring, steps_succ (step_invoke_poll hb he), steps_succ hreject, hu]
    · cases k with
      | zero =>
        cases hu
        rfl
      | succ k => exact hres k.succ_pos

/-! ## A POLL during which bytes arrive -/

/-- A run on the block's own moves is the same when events let the block make the first of them, or all. -/
theorem steps_with_blockMoves {r k : Nat} {later : List Event} (hrk : r = k ∨ k ≤ r ∧ later = []) (s : State) :
    steps r { s with env := List.replicate k .blockMoves ++ later } =
      withEnv later (steps r { s with env := [] }) := by
  induction r generalizing k s with
  | zero =>
    obtain rfl : k = 0 := by omega
    rfl
  | succ r ih =>
    have hnil : step { s with env := [] } = withEnv [] (runMove (blockMove s)) := by
      rw [step_env_nil _ rfl, blockMove_with_env]
    have hevent : step { s with env := List.replicate k .blockMoves ++ later } =
        withEnv (List.replicate (k - 1) .blockMoves ++ later) (runMove (blockMove s)) := by
      cases k with
      | zero =>
        obtain rfl : later = [] := by simpa using hrk
        exact hnil
      | succ k => exact (step_env_blockMoves _ rfl).trans (blockMove_with_env s _)
    cases hm : runMove (blockMove s) with
    | next u =>
      rw [hm] at hnil hevent
      rw [steps_succ hevent, steps_succ hnil]
      exact ih (hrk.imp (by omega) fun h => ⟨by omega, h.2⟩) u
    | fault f =>
      rw [hm] at hnil hevent
      simp [steps, hnil, hevent, withEnv]
    | refused f =>
      rw [hm] at hnil hevent
      simp [steps, hnil, hevent, withEnv]

theorem eq_rxArrive_of_arriving {e : Event} (h : (arriving e).isSome = true) : ∃ b, e = .rxArrive b := by
  cases e with
  | rxArrive b => exact ⟨b, rfl⟩
  | invoke | timeAdvances | samplesNow | blockMoves | overlappingRead => cases h

theorem step_pollAt_blockMoves {s u : State} {later : List Event} {n : Byte} {rest : List Byte} {j : Nat}
    (hm : runMove (blockMove (pollAt { s with env := later } n rest j)) = .next u) :
    step (pollAt { s with env := .blockMoves :: later } n rest j) = .next u := by
  rw [step_env_blockMoves _ (pollAt_env ..), pollAt_with_env]
  exact hm

theorem step_pollAt_rxArrive (s : State) (b : Byte) (later : List Event) (n : Byte) (rest : List Byte) (j : Nat) :
    step (pollAt { s with env := .rxArrive b :: later } n rest j) =
      .next (pollAt { s with env := later } n (rest ++ [b]) j) := by
  rw [step_env_rxArrive _ (pollAt_env ..), pollAt_with_env, rxArrive_pollAt]

/-- Arrivals among the first moves of a POLL, in any order: the moves go on, the bytes are appended. -/
theorem steps_pollAt_arrivals (s : State) {n : Byte} (hn : lengthLegal n = true) (later : List Event) (k : Nat)
    {early : List Event} (hearly : ∀ e ∈ early, e = .blockMoves ∨ (arriving e).isSome = true)
    (rest : List Byte) {j : Nat} (hj : j + early.count .blockMoves ≤ 4) :
    steps (early.count .blockMoves + (early.filterMap arriving).length + k)
        (pollAt { s with env := early ++ later } n rest j) =
      steps k
        (pollAt { s with env := later } n (rest ++ early.filterMap arriving) (j + early.count .blockMoves)) := by
  induction early generalizing rest j with
  | nil => simp
  | cons e early ih =>
    have htail : ∀ e ∈ early, e = .blockMoves ∨ (arriving e).isSome = true :=
      fun e he => hearly e (List.mem_cons_of_mem _ he)
    obtain rfl | hb := hearly e List.mem_cons_self
    · have hbytes : (Event.blockMoves :: early).filterMap arriving = early.filterMap arriving := rfl
      have hmove := blockMove_pollAt { s with env := early ++ later } rest (j := j)
        (by rw [List.count_cons_self] at hj; omega) fun _ => hn
      rw [List.cons_append, hbytes, List.count_cons_self, Nat.add_right_comm _ 1, Nat.add_right_comm _ 1,
        steps_succ (step_pollAt_blockMoves hmove), ih htail rest (by rw [List.count_cons_self] at hj; omega),
        Nat.add_right_comm, Nat.add_assoc]
    · obtain ⟨b, rfl⟩ := eq_rxArrive_of_arriving hb
      have hbytes : (Event.rxArrive b :: early).filterMap arriving = b :: early.filterMap arriving := rfl
      have hcount : (Event.rxArrive b :: early).count .blockMoves = early.count .blockMoves :=
        List.count_cons_of_ne (by simp)
      rw [hcount] at hj ⊢
      rw [List.cons_append, hbytes, List.length_cons, ← Nat.add_assoc, Nat.add_right_comm _ 1,
        steps_succ (step_pollAt_rxArrive s b (early ++ later) n rest j), ih htail (rest ++ [b]) hj,
        List.append_assoc, List.singleton_append]

/-- Settles O23: the arrivals complete the frame before S5 reads it, and from there on the POLL is the one during
which nothing arrives. -/
theorem arrivalsBeforeS5CompleteTheFrame : Obligations.ArrivalsBeforeS5CompleteTheFrame := by
  intro s t p front back early later k hp hframe hfront hb hq hearly hback hcount hk he
  obtain ⟨n, rest, rfl, hn, -⟩ := front_of_frameOf hp hframe hfront
  have hidle := (busy_eq_false_iff s).1 hb
  have hwhole : Config.syncByte :: n :: (rest ++ back) = frameOf t p := by rw [hframe]; rfl
  have hquiet : steps 6 (pollAt { s with env := [] } n (rest ++ back) 0) =
      .next (pollEnd { s with env := [], rxq := frameOf t p } ([], .frame t p)) := by
    have hpoll := builtFramesAreAccepted t p [] hp
    rw [List.append_nil] at hpoll
    rw [← hpoll]
    exact (congrArg (steps 6) (pollAt_zero (s := { s with env := [], rxq := frameOf t p }) hwhole.symm)).trans
      (steps_startPoll hidle.2 rfl)
  have hmid : steps (6 - early.count .blockMoves)
      (pollAt { s with env := [] } n (rest ++ back) (early.count .blockMoves)) =
      .next (pollEnd { s with env := [], rxq := frameOf t p } ([], .frame t p)) := by
    rw [← hquiet, ← steps_pollAt rfl _ hcount (fun _ => hn), Nat.add_sub_of_le (by omega)]
  have hstart := pollAt_zero (s := { s with env := early ++ (List.replicate k .blockMoves ++ later) }) hq
  have hrun := steps_pollAt_arrivals s hn (List.replicate k .blockMoves ++ later)
    (6 - early.count .blockMoves) hearly rest (j := 0) (by omega)
  have hend := steps_with_blockMoves (r := 6 - early.count .blockMoves) (k := k) (later := later)
    (hk.imp (by omega) fun h => ⟨by omega, h.2⟩)
    (pollAt s n (rest ++ back) (early.count .blockMoves))
  rw [pollAt_with_env, pollAt_with_env, hmid] at hend
  rw [hback, Nat.zero_add, hend, hstart] at hrun
  refine ⟨{ pollEnd { s with env := [], rxq := frameOf t p } ([], .frame t p) with env := later }, ?_,
    rfl, rfl, rfl, rfl, (busy_eq_false_iff _).2 ⟨rfl, hidle.2⟩, rfl⟩
  rw [show 7 + back.length = early.count .blockMoves + back.length + (6 - early.count .blockMoves) + 1 by omega,
    steps_succ (step_invoke_poll hb he), hrun]
  rfl

/-- Settles O24: five moves let S5 find too few bytes; the rest arrives at an idle block. -/
theorem arrivalsAfterS5ComeTooLate : Obligations.ArrivalsAfterS5ComeTooLate := by
  intro s t p front back hp hframe hfront hback hb hq he
  obtain ⟨n, rest, rfl, hn, hlen⟩ := front_of_frameOf hp hframe hfront
  have hpos := List.length_pos_iff.2 hback
  rw [List.length_append] at hlen
  have hidle := (busy_eq_false_iff s).1 hb
  have hstart := pollAt_zero
    (s := { s with env := List.replicate 4 .blockMoves ++ (.blockMoves :: back.map .rxArrive) }) hq
  have hmoves := steps_pollAt_arrivals s hn (.blockMoves :: back.map .rxArrive) (back.length + 1)
    (early := List.replicate 4 .blockMoves) (by simp) rest (j := 0) (by simp)
  have hS5 := step_pollAt_blockMoves
    (blockMove_pollAt_short { s with env := back.map .rxArrive } (n := n) (rest := rest) (by omega))
  have harrive := steps_arrivals back 0 (reject .truncated { s with env := back.map .rxArrive, rxq := [] }) []
    (by simp)
  have hnone : (List.replicate 4 Event.blockMoves).filterMap arriving = [] := rfl
  rw [hstart, hnone, List.append_nil] at hmoves
  refine ⟨{ reject .truncated { s with env := back.map .rxArrive, rxq := [] } with rxq := back, env := [] }, ?_,
    rfl, rfl, rfl, (busy_eq_false_iff _).2 ⟨rfl, hidle.2⟩⟩
  rw [show 6 + back.length = 4 + (back.length + 1) + 1 by omega, steps_succ (step_invoke_poll hb he)]
  refine hmoves.trans ((steps_succ hS5).trans ?_)
  simpa using harrive

end Sys2Proof
end

section
/-! The operations that only read, 40_crc8.md R84 and 42_decoder.md R119 to R121. -/

namespace Sys2Proof

open Machine

/-- Settles O39: both are `report`. -/
theorem crcAndReadStateOnlyReport : Obligations.CrcAndReadStateOnlyReport :=
  ⟨fun s bytes => exec_crc8 s bytes, fun s => exec_readState s⟩

/-! ## The percentage of a channel -/

theorem percentOf_eq (raw : BitVec 11) : percentOf raw = ((raw.toNat : Rat) - 992) * 100 / 819 := by
  have hrange : Config.chMax - Config.chMid = 819 := rfl
  rw [percentOf, hrange, Rat.mkRat_eq_div]
  push_cast [Config.chMid]
  rfl

theorem percentOf_of_toNat {raw : BitVec 11} {k : Nat} (h : raw.toNat = k) :
    percentOf raw = ((k : Rat) - 992) * 100 / 819 := by
  rw [percentOf_eq, h]

theorem channelPercent_of_index (ls : LinkState) (i : Fin 16) :
    channelPercent ls i.val = percentOf ls.channels[i] := by
  have hi : (0 : Int) ≤ (i.val : Int) ∧ (i.val : Int) ≤ 15 := by omega
  rw [channelPercent, if_pos hi, Int.toNat_natCast]
  simp [Vector.getD]

theorem channelPercent_of_other (ls : LinkState) {i : Int} (hi : i < 0 ∨ 15 < i) : channelPercent ls i = 0 :=
  if_neg (by omega)

/-- Settles O36: `percentOf` is the fraction of the spec, and a raw value is at most 2047; an index outside
0..15 never reaches a channel. -/
theorem channelPercentIsLinearAndUnclamped : Obligations.ChannelPercentIsLinearAndUnclamped := by
  refine ⟨fun s i => ?_, fun s i hi => ?_, fun raw => ?_, ?_, ?_, ?_, ?_⟩
  · rw [exec_getChannelPercent, channelPercent_of_index, percentOf_eq]
    rfl
  · rw [exec_getChannelPercent, channelPercent_of_other s.ls hi]
    rfl
  · have hlow : (0 : Rat) ≤ raw.toNat := Nat.cast_nonneg _
    have hhigh : (raw.toNat : Rat) ≤ 2047 := by exact_mod_cast Nat.le_of_lt_succ raw.isLt
    rw [percentOf_eq]
    constructor <;> linarith
  · rw [percentOf_of_toNat (k := 992) rfl]
    norm_num
  · rw [percentOf_of_toNat (k := 1811) rfl]
    norm_num
  · rw [percentOf_of_toNat (k := 173) rfl]
    norm_num
  · rw [percentOf_of_toNat (k := 172) rfl]
    norm_num

/-- Settles O52: every channel is 992 at reset, and 992 is 0 percent. -/
theorem afterResetEveryPercentIsZero : Obligations.AfterResetEveryPercentIsZero := by
  intro i
  have hzero : channelPercent State.reset.ls i = 0 := by
    by_cases hi : i < 0 ∨ 15 < i
    · exact channelPercent_of_other _ hi
    · obtain ⟨k, rfl⟩ : ∃ k : Fin 16, (k.val : Int) = i := ⟨⟨i.toNat, by omega⟩, by simp; omega⟩
      rw [channelPercent_of_index, resetLeavesWhatTheSpecGives.1 k, percentOf_of_toNat (k := 992) rfl]
      norm_num
  rw [exec_getChannelPercent, hzero]
  rfl

/-! ## Liveness -/

theorem isConnectedAt_iff {w : Nat} (now lastPacketTime timeout : BitVec w) :
    isConnectedAt now lastPacketTime timeout = true ↔
      (now.toNat + (2 ^ w - lastPacketTime.toNat)) % 2 ^ w < timeout.toNat := by
  rw [isConnectedAt, elapsed, BitVec.ult_iff_lt, BitVec.lt_def, BitVec.toNat_sub, Nat.add_comm]

@[simp] theorem timeoutOf_some (t : Config.Time) : timeoutOf (some t) = t := rfl

@[simp] theorem toNat_timeoutOf_none : (timeoutOf none).toNat = 1000 := by
  have hwidth : 2 ^ 11 ≤ 2 ^ Config.timeW := Nat.pow_le_pow_right (by decide) (by unfold Config.timeW; omega)
  exact Nat.mod_eq_of_lt (show 1000 < 2 ^ Config.timeW by omega)

theorem timeoutOf_eq_zero {timeout : Option Config.Time} (h : timeoutOf timeout = 0) : timeout = some 0 := by
  cases timeout with
  | some t => exact congrArg some h
  | none =>
    have hnone := toNat_timeoutOf_none
    rw [h] at hnone
    cases hnone

theorem isConnectedAt_self {w : Nat} (now : BitVec w) {timeout : BitVec w} (h : timeout ≠ 0) :
    isConnectedAt now now timeout = true := by
  have hpos : timeout.toNat ≠ 0 := fun h0 => h (BitVec.eq_of_toNat_eq (by simpa using h0))
  have hself : now.toNat + (2 ^ w - now.toNat) = 2 ^ w := Nat.add_sub_of_le now.isLt.le
  rw [isConnectedAt_iff, hself, Nat.mod_self]
  omega

/-- Settles O37: the elapsed time as a number is `isConnectedAt_iff`; nothing is below 0, and elapsed 0 is below
every other timeout. -/
theorem connectedIffElapsedBelowTimeout : Obligations.ConnectedIffElapsedBelowTimeout := by
  intro s timeout
  refine ⟨_, exec_isConnected s timeout, ?_, ?_, fun hnow ht => ?_⟩
  · rw [isConnectedAt_iff]
    cases timeout <;> simp
  · rintro rfl
    rw [← Bool.not_eq_true, isConnectedAt_iff]
    simp
  · rw [hnow]
    exact isConnectedAt_self _ (mt timeoutOf_eq_zero ht)

/-- Settles O38: elapsed 0 is below every timeout but 0; an elapsed time equal to the timeout is not below it. -/
theorem livenessBeforeTheFirstFrameIsOpen : Obligations.LivenessBeforeTheFirstFrameIsOpen := by
  intro now timeout ht
  refine ⟨⟨now, isConnectedAt_self now ht⟩, now - timeout, ?_⟩
  rw [isConnectedAt, elapsed, sub_sub_cancel]
  simp [BitVec.ult]

end Sys2Proof
end

section
/-! The encoder: the numbers of 30_encoding.md R61, R62, the four ENC operations and BUILD, 43_encoder.md R130
to R135, and the result codes of 60_exceptions.md R150, R153. -/

namespace Sys2Proof

open Machine

/-- Settles O40: a rational is its numerator over its denominator, so each scaled value is a fraction, and
`truncDiv` drops its fractional part. -/
theorem scaleFunctionsTruncateTowardZero : Obligations.ScaleFunctionsTruncateTowardZero := by
  intro q
  have hden : (q.den : Rat) ≠ 0 := by exact_mod_cast q.den_nz
  have hq : (q.num : Rat) / q.den = q := q.num_div_den
  refine ⟨?_, ?_, ?_, ?_⟩
  · rw [scale10, ← trunc_div _ _ q.den_nz]
    congr 1
    push_cast
    rw [mul_div_right_comm, hq]
  · rw [scale1e7, ← trunc_div _ _ q.den_nz]
    congr 1
    push_cast
    rw [mul_div_right_comm, hq]
  · rw [scaleAtt, ← trunc_div _ _ (Nat.mul_ne_zero q.den_nz (by decide))]
    congr 1
    push_cast
    rw [mul_div_mul_comm, hq, mul_div_assoc]
  · rw [scaleAlt, ← trunc_div _ _ q.den_nz]
    congr 1
    push_cast [Config.altOffset]
    rw [add_div, hq, mul_div_cancel_right₀ _ hden]

/-- Settles O41: the unsigned reading is the remainder, the signed one the balanced remainder, which leaves a
number that fits as it is. -/
theorem wrapKeepsTheLowBits : Obligations.WrapKeepsTheLowBits := by
  intro n z
  refine ⟨?_, fun hn hlo hhi => ?_⟩
  · rw [wrap, BitVec.toNat_ofInt, Int.toNat_of_nonneg (Int.emod_nonneg _ (by positivity))]
    push_cast
    rfl
  · rw [wrap, BitVec.toInt_ofInt]
    obtain ⟨m, rfl⟩ := Nat.exists_eq_succ_of_ne_zero hn.ne'
    rw [Nat.succ_sub_one] at hlo hhi
    apply Int.bmod_eq_of_le
    · simp [pow_succ]; omega
    · simp [pow_succ]; omega

/-! ## The payloads, byte by byte -/

theorem batteryPayload_eq (v a : BitVec 16) (c : BitVec 24) : batteryPayload v a c =
    [v.extractLsb' 8 8, v.extractLsb' 0 8, a.extractLsb' 8 8, a.extractLsb' 0 8,
      c.extractLsb' 16 8, c.extractLsb' 8 8, c.extractLsb' 0 8, 0x00] := by
  simp [batteryPayload, beBytes_two, beBytes_three, ofNat_slice_toNat]

theorem gpsPayload_eq (la lo : BitVec 32) (al : BitVec 16) (sa : Byte) : gpsPayload la lo al sa =
    [la.extractLsb' 24 8, la.extractLsb' 16 8, la.extractLsb' 8 8, la.extractLsb' 0 8,
      lo.extractLsb' 24 8, lo.extractLsb' 16 8, lo.extractLsb' 8 8, lo.extractLsb' 0 8,
      0x00, 0x00, 0x00, 0x00, al.extractLsb' 8 8, al.extractLsb' 0 8, sa] := by
  simp [gpsPayload, beBytes_two, beBytes_four, ofNat_slice_toNat]

theorem attitudePayload_eq (p r y : BitVec 16) : attitudePayload p r y =
    [p.extractLsb' 8 8, p.extractLsb' 0 8, r.extractLsb' 8 8, r.extractLsb' 0 8,
      y.extractLsb' 8 8, y.extractLsb' 0 8] := by
  simp [attitudePayload, beBytes_two, ofNat_slice_toNat]

/-! ## The operations -/

/-- BUILD is the step after an ENC operation, when nothing else is to come. -/
theorem step_beginFrame {s : State} {t : Byte} {p : List Byte} (hp : s.phase = .idle) (he : s.env = [])
    (hbuild : Buildable t p) : step (beginFrame t p s) = .next (build t p s) := by
  rw [step_env_nil (beginFrame t p s) he]
  exact blockMove_builds (s := beginFrame t p s) hp rfl hbuild

/-- Settles O42: the packed payload is the one of the spec byte by byte, and it decodes to BATTERY, so the next
move is BUILD of it. -/
theorem encBatterySendsTheFrame : Obligations.EncBatterySendsTheFrame := by
  intro s voltage current capacity hp he
  obtain ⟨hv, -⟩ := scaleFunctionsTruncateTowardZero voltage
  obtain ⟨ha, -⟩ := scaleFunctionsTruncateTowardZero current
  have hstep := step_beginFrame hp he ⟨_, txInstr_battery (wrap 16 (scale10 voltage)) (wrap 16 (scale10 current))
    (wrap 24 capacity), rfl⟩
  have hexec := exec_encBattery s voltage current capacity
  rw [batteryPayload_eq, hv, ha] at hstep hexec
  exact ⟨hexec, hstep⟩

/-- Settles O43, as O42 with the layout of R58. -/
theorem encGpsSendsTheFrame : Obligations.EncGpsSendsTheFrame := by
  intro s latitude longitude altitude satellites hp he
  obtain ⟨-, hla, -⟩ := scaleFunctionsTruncateTowardZero latitude
  obtain ⟨-, hlo, -⟩ := scaleFunctionsTruncateTowardZero longitude
  obtain ⟨-, -, -, hal⟩ := scaleFunctionsTruncateTowardZero altitude
  have hstep := step_beginFrame hp he ⟨_, txInstr_gps (wrap 32 (scale1e7 latitude)) (wrap 32 (scale1e7 longitude))
    (wrap 16 (scaleAlt altitude)) (wrap 8 satellites), rfl⟩
  have hexec := exec_encGps s latitude longitude altitude satellites
  rw [gpsPayload_eq, hla, hlo, hal] at hstep hexec
  exact ⟨hexec, hstep⟩

/-- Settles O44, as O42 with the layout of R59. -/
theorem encAttitudeSendsTheFrame : Obligations.EncAttitudeSendsTheFrame := by
  intro s pitch roll yaw hp he
  obtain ⟨-, -, hpi, -⟩ := scaleFunctionsTruncateTowardZero pitch
  obtain ⟨-, -, hro, -⟩ := scaleFunctionsTruncateTowardZero roll
  obtain ⟨-, -, hya, -⟩ := scaleFunctionsTruncateTowardZero yaw
  have hstep := step_beginFrame hp he ⟨_, txInstr_attitude (wrap 16 (scaleAtt pitch)) (wrap 16 (scaleAtt roll))
    (wrap 16 (scaleAtt yaw)), rfl⟩
  have hexec := exec_encAttitude s pitch roll yaw
  rw [attitudePayload_eq, hpi, hro, hya] at hstep hexec
  exact ⟨hexec, hstep⟩

/-- With no frame being built, EncodingError changes the result alone. -/
theorem raiseEncodingError_eq {s : State} (hb : s.building = none) :
    raiseEncodingError s = { s with result := some .encodingError } := by
  rw [raiseEncodingError, ← hb]

/-- Settles O45: the test for ASCII comes before the test of the length. -/
theorem encFlightModeSendsOrRaises : Obligations.EncFlightModeSendsOrRaises := by
  intro s name hp hb he
  refine ⟨fun hbad => ?_, fun hascii hlong => ?_, fun hascii hlen => ⟨?_, ?_⟩⟩
  · rw [exec_encFlightMode_raises s ((allAscii_eq_false_iff name).2 hbad), raiseEncodingError_eq hb]
  · exact exec_encFlightMode_long s ((allAscii_iff name).2 hascii) hlong
  · exact exec_encFlightMode_begins s ((allAscii_iff name).2 hascii) hlen
  · have hw := flightModePayload_wellFormed ((allAscii_iff name).2 hascii) hlen
    have hstep := step_beginFrame hp he ⟨_, txInstr_flightMode (flightModePayload name), hw⟩
    have hlength : (flightModePayload name).length + 2 = name.length + 3 := by rw [flightModePayload_length]
    rw [build, frameOf, hlength, ← hb] at hstep
    exact hstep

/-- Settles O46: the encoding of a built frame is the frame BUILD makes of its type and payload. -/
theorem builtFrameIsWrittenAndReported : Obligations.BuiltFrameIsWrittenAndReported := by
  intro s i bytes hw hbytes
  cases i with
  | battery | gps | attitude =>
    cases hbytes
    rfl
  | flightMode p =>
    cases hbytes
    exact exec_flightMode s ((flightModeWellFormed_iff p).1 hw).1
  | isConnected timeout => cases timeout <;> cases hbytes
  | rcChannelsPacked | linkStatistics | rxUnrecognised | poll | crc8 | getChannelPercent | readState | encGps
  | encBattery | encAttitude | encFlightMode => cases hbytes

/-- Settles O47: of all an instruction can do, only `raiseEncodingError` reports the error. -/
theorem encodingErrorHasNoLastingEffect : Obligations.EncodingErrorHasNoLastingEffect := by
  refine ⟨fun i s u h hres => ?_, fun name s hb hbad => ?_, rfl, fun i s => exec_with_result i s _⟩
  · obtain ⟨t, n, p, c, arm, rfl, -⟩ | ⟨t, p, rfl, -⟩ | ⟨rfl, rfl⟩ | ⟨r, rfl, -, hr, -⟩ |
      ⟨t, p, j, rfl, -⟩ | ⟨name, rfl, hname, rfl⟩ := exec_cases s h
    · obtain ⟨c, hc⟩ | ⟨-, hc⟩ := receive_cases s t n p c arm <;> rw [hc] at hres <;> cases hres
    · cases hres
    · cases hres
    · exact absurd (Option.some.inj hres) hr
    · cases hres
    · exact ⟨name, rfl, (allAscii_eq_false_iff name).1 hname⟩
  · rw [exec_encFlightMode_raises s ((allAscii_eq_false_iff name).2 hbad),
      raiseEncodingError_eq ((busy_eq_false_iff s).1 hb).2]

/-- Settles O48: `resultCode` and `causeCode` written out. -/
theorem resultCodesOfTheSpec : Obligations.ResultCodesOfTheSpec :=
  ⟨fun _ _ => rfl, rfl, rfl⟩

end Sys2Proof
end
